-- ==== Sys2Proof/Word.lean ====
section
/-!
DEFINITION. The widths of the block: the 64-bit command word and the operand and storage widths of 00_scope.md R7,
10_state.md R20-R31 and 30_encoding.md R80-R91. Every value is unsigned (R8).
-/

namespace Sys2Proof

/-- A command word (R80). -/
abbrev Word := BitVec 64

/-- A display buffer entry, a dot mask, a digit index operand (R25, R87). -/
abbrev Byte := BitVec 8

/-- One BCD digit, or a 4-bit digit operand that may hold 10..15 (R84, R85). -/
abbrev Digit := BitVec 4

/-- A 7-segment pattern, bits 6:0 of a buffer entry (R25, R150). -/
abbrev Segments := BitVec 7

end Sys2Proof
end

