-- ==== Sys2Proof/Syntax.lean ====
section
/-!
DEFINITION. The sixteen commands of the opcode map (30_encoding.md R90), one constructor each, with the operands R82-R89 name.
-/

namespace Sys2Proof

/-- The direction of a key edge: `DIR` = 1 is a press, 0 a release (R89). -/
inductive Edge where
  | press
  | release
  deriving DecidableEq, Repr

/-- A command. Digit operands are the raw 4-bit fields, which may hold 10..15 (R84, R85); the commands validate them. -/
inductive Instr where
  | advanceTick
  | getTime
  | setTime (cnt : BitVec 4) (d0 d1 d2 d3 : Digit)
  | getAlarm
  | setAlarm (d0 d1 d2 d3 : Digit)
  | toggleAlarm
  | snooze (minutes : BitVec 8)
  | cancelAlarm
  | writeDigits (cnt : BitVec 4) (v0 v1 v2 v3 v4 v5 v6 v7 : Digit)
  | refresh
  | setFlashWindow (fromDigit toDigit : BitVec 8) (factor : BitVec 16)
  | toggleDot (index : BitVec 8)
  | setDots (mask : BitVec 8)
  | clearDots (mask : BitVec 8)
  | pollKeys (levels : BitVec 6)
  /-- `key` is the 3-bit `KEY` field; only 0..5 spell a command (R89, R92). -/
  | keyEvent (key : BitVec 3) (edge : Edge)
  deriving DecidableEq, Repr

end Sys2Proof
end

