-- ==== Sys2Proof/WellFormed.lean ====
section
/-!
DEFINITION. Which terms of `Instr` are commands of the block. Every operand field admits every value of its width
(R84, R85, R88) but one: the key number of KEY_EVENT (R89, R92).
-/

namespace Sys2Proof

/-- The check of R89: `KEY` names one of the six keys of R94. -/
def keyNumberOk (key : BitVec 3) : Bool := key.toNat ≤ 5

/-- A term that some word spells. -/
def Instr.wellFormed : Instr → Bool
  | .advanceTick | .getTime | .getAlarm | .toggleAlarm | .cancelAlarm | .refresh => true
  | .setTime _ _ _ _ _ => true
  | .setAlarm _ _ _ _ => true
  | .snooze _ | .toggleDot _ | .setDots _ | .clearDots _ => true
  | .writeDigits _ _ _ _ _ _ _ _ _ => true
  | .setFlashWindow _ _ _ => true
  | .pollKeys _ => true
  | .keyEvent key _ => keyNumberOk key

end Sys2Proof
end

