-- ==== Sys2Proof/Decode.lean ====
section
/-!
DEFINITION. The decoder of 30_encoding.md R93, total on all words, and the encoder written from the same formats (R81-R90).
-/

namespace Sys2Proof

/-- Why a word is undefined (R92). -/
inductive DecodeError where
  /-- `OP` is not in the map of R90. -/
  | unknownOpcode (op : BitVec 8)
  /-- One of the bits 55:36, reserved in every format, is 1 (R81). -/
  | reservedBits
  /-- A bit the format does not use is 1 (R82-R89). -/
  | operandBits
  /-- A KEY_EVENT with `KEY` 6 or 7 (R89). -/
  | keyNumber (key : BitVec 3)
  deriving DecidableEq, Repr

/-- The field of `w` that is `len` bits long and begins at bit `lo`: the spec's `w[lo+len-1 : lo]` (R8). -/
def bits (w : Word) (lo len : Nat) : BitVec len := w.extractLsb' lo len

/-- `DIR` (R89). -/
def edgeOfBit (dir : BitVec 1) : Edge := if dir = 1#1 then .press else .release

def bitOfEdge : Edge → BitVec 1
  | .press => 1#1
  | .release => 0#1

/-- A command of format N: no operand bit may be set (R83). -/
def decodeNone (w : Word) (i : Instr) : Except DecodeError Instr :=
  if bits w 0 36 = 0#36 then .ok i else .error .operandBits

/-- A command of format B: one 8-bit operand (R87). -/
def decodeByte (w : Word) (mk : BitVec 8 → Instr) : Except DecodeError Instr :=
  if bits w 8 28 = 0#28 then .ok (mk (bits w 0 8)) else .error .operandBits

/-- Format D4 (R84). -/
def decodeSetTime (w : Word) : Except DecodeError Instr :=
  if bits w 0 16 = 0#16 then
    .ok (.setTime (bits w 32 4) (bits w 28 4) (bits w 24 4) (bits w 20 4) (bits w 16 4))
  else .error .operandBits

/-- Format A (R86). -/
def decodeSetAlarm (w : Word) : Except DecodeError Instr :=
  if bits w 32 4 = 0#4 ∧ bits w 0 16 = 0#16 then
    .ok (.setAlarm (bits w 28 4) (bits w 24 4) (bits w 20 4) (bits w 16 4))
  else .error .operandBits

/-- Format D8 (R85): `V_i = w[31-4i : 28-4i]`. -/
def decodeWriteDigits (w : Word) : Except DecodeError Instr :=
  .ok (.writeDigits (bits w 32 4) (bits w 28 4) (bits w 24 4) (bits w 20 4) (bits w 16 4)
    (bits w 12 4) (bits w 8 4) (bits w 4 4) (bits w 0 4))

/-- Format W (R88). -/
def decodeSetFlashWindow (w : Word) : Except DecodeError Instr :=
  if bits w 32 4 = 0#4 then
    .ok (.setFlashWindow (bits w 0 8) (bits w 8 8) (bits w 16 16))
  else .error .operandBits

/-- Format K (R82, R93). -/
def decodePollKeys (w : Word) : Except DecodeError Instr :=
  if bits w 6 30 = 0#30 then .ok (.pollKeys (bits w 0 6)) else .error .operandBits

/-- Format E (R89). -/
def decodeKeyEvent (w : Word) : Except DecodeError Instr :=
  if bits w 9 27 = 0#27 ∧ bits w 3 5 = 0#5 then
    if keyNumberOk (bits w 0 3) then .ok (.keyEvent (bits w 0 3) (edgeOfBit (bits w 8 1)))
    else .error (.keyNumber (bits w 0 3))
  else .error .operandBits

/-- The opcode map of R90. -/
def decodeOpcode (w : Word) : Except DecodeError Instr :=
  match (bits w 56 8).toNat with
  | 0x01 => decodeNone w .advanceTick
  | 0x02 => decodeNone w .getTime
  | 0x03 => decodeSetTime w
  | 0x04 => decodeNone w .getAlarm
  | 0x05 => decodeSetAlarm w
  | 0x06 => decodeNone w .toggleAlarm
  | 0x07 => decodeByte w .snooze
  | 0x08 => decodeNone w .cancelAlarm
  | 0x10 => decodeWriteDigits w
  | 0x11 => decodeNone w .refresh
  | 0x12 => decodeSetFlashWindow w
  | 0x13 => decodeByte w .toggleDot
  | 0x14 => decodeByte w .setDots
  | 0x15 => decodeByte w .clearDots
  | 0x20 => decodePollKeys w
  | 0x21 => decodeKeyEvent w
  | _ => .error (.unknownOpcode (bits w 56 8))

/-- The decoder of R93: total, and an undefined word is refused by name. -/
def decode (w : Word) : Except DecodeError Instr :=
  if bits w 36 20 = 0#20 then decodeOpcode w else .error .reservedBits

/-- The number whose bits from `lo` up are the field `v`. -/
def place (len : Nat) (v : BitVec len) (lo : Nat) : Nat := v.toNat * 2 ^ lo

/-- `OP` (R90). -/
def opcode : Instr → BitVec 8
  | .advanceTick => 0x01#8
  | .getTime => 0x02#8
  | .setTime _ _ _ _ _ => 0x03#8
  | .getAlarm => 0x04#8
  | .setAlarm _ _ _ _ => 0x05#8
  | .toggleAlarm => 0x06#8
  | .snooze _ => 0x07#8
  | .cancelAlarm => 0x08#8
  | .writeDigits _ _ _ _ _ _ _ _ _ => 0x10#8
  | .refresh => 0x11#8
  | .setFlashWindow _ _ _ => 0x12#8
  | .toggleDot _ => 0x13#8
  | .setDots _ => 0x14#8
  | .clearDots _ => 0x15#8
  | .pollKeys _ => 0x20#8
  | .keyEvent _ _ => 0x21#8

/-- The operand bits 35:0 of a command, as a number (R82-R89). -/
def operandBits : Instr → Nat
  | .advanceTick | .getTime | .getAlarm | .toggleAlarm | .cancelAlarm | .refresh => 0
  | .setTime cnt d0 d1 d2 d3 =>
    place 4 cnt 32 + place 4 d0 28 + place 4 d1 24 + place 4 d2 20 + place 4 d3 16
  | .setAlarm d0 d1 d2 d3 => place 4 d0 28 + place 4 d1 24 + place 4 d2 20 + place 4 d3 16
  | .snooze b | .toggleDot b | .setDots b | .clearDots b => place 8 b 0
  | .writeDigits cnt v0 v1 v2 v3 v4 v5 v6 v7 =>
    place 4 cnt 32 + place 4 v0 28 + place 4 v1 24 + place 4 v2 20 + place 4 v3 16
      + place 4 v4 12 + place 4 v5 8 + place 4 v6 4 + place 4 v7 0
  | .setFlashWindow f t factor => place 16 factor 16 + place 8 t 8 + place 8 f 0
  | .pollKeys levels => place 6 levels 0
  | .keyEvent key edge => place 1 (bitOfEdge edge) 8 + place 3 key 0

/-- The word of a command (R80-R90). -/
def encode (i : Instr) : Word := BitVec.ofNat 64 (place 8 (opcode i) 56 + operandBits i)

/-- The instruction the decoder reads from the bits `w`, numbered as spec/opcode_table.json numbers them: a command is one
64-bit word (R95), so bits above `nbits` are 0 and the rest are the word's own. -/
def decodeTableWord (nbits w : Nat) : Option Instr :=
  match decode (BitVec.ofNat 64 (w % 2 ^ nbits)) with
  | .ok i => some i
  | .error _ => none

end Sys2Proof
end

