-- ==== Sys2Proof/Config.lean ====
section
/-!
DEFINITION. What an implementation of the block fixes: the parameters of 00_scope.md R6, and the values the spec leaves open,
which are constants without a body, so that nothing can be proved about which value they have.
-/

namespace Sys2Proof

/-- The implementation parameters of R6. They are configuration: no command changes them (R33).
The digit count is a plain number because construction is checked against every configured count (R281);
the other widths are those of R6's legal ranges. -/
structure Params where
  /-- `N` (DIGIT_COUNT), legal 1..8. -/
  digitCount : Nat
  /-- `TPS` (TICKS_PER_SECOND), legal 1..65535. -/
  ticksPerSecond : BitVec 16
  /-- `SNOOZE_MINUTES`, 0..255. -/
  snoozeMinutes : BitVec 8
  /-- `IDLE_LIMIT`, 0..65535; 0 disables the idle timeout. -/
  idleLimit : BitVec 16
  /-- `EDIT_FLASH_FACTOR`, 0..65535. -/
  editFlashFactor : BitVec 16
  /-- `SEPARATOR_DIGIT`, 0..255. -/
  separatorDigit : BitVec 8
  /-- `SEG_TABLE`: the pattern of each digit value 0..9. -/
  segTable : Vector Segments 10
  deriving DecidableEq, Repr

/-- The `k`-th `draw(7)` of a run: the undefined segments of R151. A free value: no body, so no proof sees a pattern
(assumption log 6). -/
opaque Config.freeSegments : Nat → Segments

/-- The OPEN value of `IDLE_LIMIT` after reset (R6, decision D33). No body (assumption log 5). -/
opaque Config.openIdleLimit : BitVec 16

/-- The OPEN value of `EDIT_FLASH_FACTOR` after reset (R6, decision D34). No body (assumption log 5). -/
opaque Config.openEditFlashFactor : BitVec 16

end Sys2Proof
end

