-- ==== Sys2Proof/Machine/Parameters.lean ====
section
/-!
DEFINITION. The values the spec gives the parameters of 00_scope.md R6, their legal ranges, and the construction check of
70_reset_and_hazards.md R281.
-/

namespace Sys2Proof.Machine

/-- `MAX_DIGITS` (R6, decision D8). -/
def maxDigits : Nat := 8

/-- The default of `SEG_TABLE` (R150; PRESUMED: the spec marks it as general knowledge; assumption log 4). -/
def defaultSegTable : Vector Segments 10 :=
  #v[0x3F#7, 0x06#7, 0x5B#7, 0x4F#7, 0x66#7, 0x6D#7, 0x7D#7, 0x07#7, 0x7F#7, 0x6F#7]

/-- The parameters of this hardware as R6 gives them; the two OPEN ones have no value a proof can see
(assumption logs 4 and 5). -/
def referenceParams : Params where
  digitCount := 4
  ticksPerSecond := 1000#16
  snoozeMinutes := 5#8
  idleLimit := Config.openIdleLimit
  editFlashFactor := Config.openEditFlashFactor
  separatorDigit := 1#8
  segTable := defaultSegTable

/-- Construction succeeds exactly when the digit count is in 1..`MAX_DIGITS` (R281). -/
def constructionSucceeds (p : Params) : Bool := 1 ≤ p.digitCount ∧ p.digitCount ≤ maxDigits

end Sys2Proof.Machine
end

