-- ==== Sys2Proof/Machine/State.lean ====
section
/-!
DEFINITION. The state of the block as plain data: every register of 10_state.md R20-R32, the output trace of 30_encoding.md R97,
the parameters (R6, R33), the command words that have arrived (R63, R80) and the counter of drawn free values (R151).
-/

namespace Sys2Proof.Machine

/-- `MODE` (R13, R29). -/
inductive Mode where
  | unconfigured
  | showingTime
  | editMinutesOfTime
  | editHoursOfTime
  | editMinutesOfAlarm
  | editHoursOfAlarm
  deriving DecidableEq, Repr

/-- Four digits of a time, in the order of R61: hour tens, hour units, minute tens, minute units. The 16-bit packing of R20
is `Time.packed`. -/
structure Time where
  hourTens : Digit
  hourUnits : Digit
  minuteTens : Digit
  minuteUnits : Digit
  deriving DecidableEq, Repr

/-- The status of a response (R250). -/
inductive Status where
  | ok
  | invalidArgument
  | notReady
  | undefinedCommand
  deriving DecidableEq, Repr

/-- An output event (R97). -/
inductive Event where
  | drvAllOff
  | drvSegments (mask : Byte)
  | drvDigit (index : Byte)
  | alarmNotify (activate : Bool)
  | response (status : Status) (data : BitVec 16)
  deriving DecidableEq, Repr

/-- The display buffer as (digit, byte) pairs in one canonical form (assumption log 12). -/
abbrev Memory := List Host.Cell

/-- Everything the block holds. -/
structure State where
  /-- The parameters of R6: configuration, which no command writes (R33). -/
  params : Params
  /-- The command words delivered to the block and not yet taken, next one first (R63, R80; assumption log 1). -/
  input : List Word
  /-- The output trace, oldest event first (R97). -/
  trace : List Event
  /-- How many free values have been drawn (R151; assumption log 6). -/
  draws : Nat
  /-- `TIME` (R20). -/
  time : Time
  /-- `TICK_COUNT` (R21). -/
  tickCount : BitVec 16
  /-- `SECONDS` (R22). -/
  seconds : BitVec 6
  /-- `CLOCK_VALID` (R23). -/
  clockValid : Bool
  /-- `ALARM_TIME` (R24). -/
  alarmTime : Time
  /-- `ALARM_EN` (R23). -/
  alarmEn : Bool
  /-- `RINGING` (R23). -/
  ringing : Bool
  /-- `BUF[0..N-1]` (R25). -/
  buf : Memory
  /-- `ACTIVE_DIGIT` (R26). -/
  activeDigit : BitVec 3
  /-- `FLASH_FROM` (R27). -/
  flashFrom : BitVec 4
  /-- `FLASH_TO` (R27). -/
  flashTo : BitVec 4
  /-- `FLASH_FACTOR` (R27). -/
  flashFactor : BitVec 16
  /-- `FLASH_COUNT` (R27). -/
  flashCount : BitVec 16
  /-- `KEY_PREV` (R28). -/
  keyPrev : BitVec 6
  /-- `MODE` (R29). -/
  mode : Mode
  /-- `EDIT` (R30). -/
  edit : Time
  /-- `IDLE_COUNT` (R31). -/
  idleCount : BitVec 16
  /-- `HALTED` (R32). -/
  halted : Bool
  deriving DecidableEq, Repr

/-- Why the block stops. -/
inductive Fault where
  /-- The block is halted (R253): it has no step, for good. Raised by every meaning and by the step. Safe: the spec says a
  model represents the halted block as stuck. -/
  | halted
  /-- A BCD routine met an illegal field (R117): raised by ADVANCE_TICK, SNOOZE and the key handlers. Safe: the spec demands the
  fault, and no reachable state raises it (R39). -/
  | illegalBcdField
  /-- A modulus or a scan position outside the legal range of its parameter (R6, R118): raised by ADVANCE_TICK when `TPS` is 0
  and by REFRESH when `N` is outside 1..8. Safe: no block with legal parameters raises it (assumption log 10). -/
  | illegalParameter
  deriving DecidableEq, Repr

/-- Why an instruction has no meaning. -/
inductive Refusal where
  /-- An arm of the dispatch without a meaning. Safe: the run ends there. No arm raises it. -/
  | notModelled (mnemonic : String)
  deriving DecidableEq, Repr

/-- 00:00. -/
def Time.zero : Time := ⟨0#4, 0#4, 0#4, 0#4⟩

/-- The reset of R280-R283 for given parameters: the values of R282 and the event of R283 when construction succeeds, a halted
block with an empty trace when it does not (R281; for its other fields see assumption log 8). -/
def State.resetWith (p : Params) : State where
  params := p
  input := []
  trace := if constructionSucceeds p then [.drvAllOff] else []
  draws := 0
  time := Time.zero
  tickCount := 0#16
  seconds := 0#6
  clockValid := false
  alarmTime := Time.zero
  alarmEn := false
  ringing := false
  buf := []
  activeDigit := 0#3
  flashFrom := 0#4
  flashTo := 0#4
  flashFactor := 0#16
  flashCount := 0#16
  keyPrev := 0#6
  mode := .unconfigured
  edit := Time.zero
  idleCount := 0#16
  halted := !constructionSucceeds p

/-- The block right after reset, with the parameters R6 gives this hardware. -/
def State.reset : State := State.resetWith referenceParams

end Sys2Proof.Machine
end

