-- ==== Sys2Proof/Machine/Ops.lean ====
section
/-!
DEFINITION. The named operations over the display buffer, the output trace and the input stream, and what every command shares:
the halt guard, the response, the answer to an undefined word. The block takes no exceptions (60_exceptions.md R259): what stands
in their place is the status of a response (R250), given by `answer`, `finish` and `undefinedCommand`.
-/

namespace Sys2Proof.Machine

/-- What a command ends in. -/
abbrev Result := Host.Outcome State Fault Refusal

/-- What an entry of the buffer that is not listed reads as: the reset value of every entry (R25, R282). -/
def Memory.unlisted : Byte := 0x00#8

/-- The byte of an entry. -/
def Memory.read : Memory → Nat → Byte
  | [], _ => Memory.unlisted
  | (b, v) :: m, a => if b = a then v else Memory.read m a

/-- The buffer without an entry for `a`. -/
def Memory.remove (m : Memory) (a : Nat) : Memory := m.filter fun c => c.1 ≠ a

/-- The buffer with the pair put in its place by rising digit. -/
def Memory.insert : Memory → Nat → Byte → Memory
  | [], a, v => [(a, v)]
  | (b, w) :: m, a, v => if a < b then (a, v) :: (b, w) :: m else (b, w) :: Memory.insert m a v

/-- Writing a byte; writing what an unlisted entry reads as removes the entry, so that equal buffers are equal lists. -/
def Memory.write (m : Memory) (a : Nat) (v : Byte) : Memory :=
  if v = Memory.unlisted then m.remove a else (m.remove a).insert a v

/-- The canonical form: digits strictly rising, and no entry equal to what an unlisted one reads as. -/
abbrev Memory.wf (m : Memory) : Prop :=
  List.Pairwise (fun c d : Host.Cell => c.1 < d.1) m ∧ ∀ c ∈ m, c.2 ≠ Memory.unlisted

/-- `BUF[i]`, for `i < N` (R9, R25). No rule reads an entry at or above `N` (R60). -/
def State.bufRead (s : State) (i : Nat) : Byte := s.buf.read i

/-- `BUF[i] <- v`; an index at or above `N` does nothing (R60). -/
def State.bufWrite (s : State) (i : Nat) (v : Byte) : State :=
  if i < s.params.digitCount then { s with buf := s.buf.write i v } else s

/-- `emit E` (R9, R97). -/
def State.emit (s : State) (e : Event) : State := { s with trace := s.trace ++ [e] }

/-- `respond(status, data)` (R9, R98). -/
def State.respond (s : State) (status : Status) (data : BitVec 16) : State :=
  s.emit (.response status data)

/-- `draw(7)` (R9, R151): the next free value, and the state that has drawn it. -/
def State.drawSegments (s : State) : Segments × State :=
  (Config.freeSegments s.draws, { s with draws := s.draws + 1 })

/-- A halted block has no step (R253); any other runs the command. -/
def running (s : State) (command : Result) : Result :=
  if s.halted then .fault .halted else command

/-- The end of a command that reports a status and no data (R98). -/
def answer (r : Status × State) : Result := .next (r.2.respond r.1 0x0000#16)

/-- The end of a command that always answers OK with no data, or the fault R117 demands where a BCD routine met an illegal
field. -/
def finish : Option State → Result
  | some s => answer (.ok, s)
  | none => .fault .illegalBcdField

/-- What the block does with an undefined word: no state changes, and the response UNDEFINED_COMMAND (R92, R254). -/
def undefinedCommand (s : State) : Result := answer (.undefinedCommand, s)

/-- The next command word and the state that has taken it; none while no word has arrived (R63, R80). -/
def State.nextCommand (s : State) : Option (Word × State) :=
  match s.input with
  | [] => none
  | w :: rest => some (w, { s with input := rest })

/-- What the block does while no word has arrived: nothing (R285, R294; assumption log 2). -/
def State.wait (s : State) : State := s

/-- The command word `w`, of `nbits` bits, delivered as the next one (assumption log 1). -/
def State.deliver (s : State) (nbits w : Nat) : State :=
  { s with input := BitVec.ofNat 64 (w % 2 ^ nbits) :: s.input }

/-- A restart: all state is lost but the parameters, which are fixed at construction (R33, R266, R280). No command reaches it. -/
def State.restart (s : State) : State := State.resetWith s.params

end Sys2Proof.Machine
end

