-- ==== Sys2Proof/Machine/Operands.lean ====
section
/-!
DEFINITION. The operand forms: the packing of a time (10_state.md R20), its two BCD fields (40_clock.md R110), the validation of
digit operands (R116), the key numbers (30_encoding.md R94), the modes' groups (00_scope.md R12) and the numbers the spec gives
modes and status codes.
-/

namespace Sys2Proof.Machine

/-- A two-digit BCD field `(t, u)` (R110). -/
abbrev Field := Digit × Digit

/-- A limit pair `(TL, UL)` (R110). -/
abbrev Limits := Digit × Digit

/-- The minute field's limit pair (R110). -/
def minuteLimits : Limits := (5#4, 9#4)

/-- The hour field's limit pair (R110). -/
def hourLimits : Limits := (2#4, 3#4)

/-- `legal` of R110. -/
def legalField (f : Field) (limits : Limits) : Bool :=
  (f.1.toNat < limits.1.toNat ∧ f.2.toNat ≤ 9) ∨ (f.1 = limits.1 ∧ f.2.toNat ≤ limits.2.toNat)

/-- `val(t, u)` of R114. -/
def fieldValue (f : Field) : Nat := 10 * f.1.toNat + f.2.toNat

def Time.hours (t : Time) : Field := (t.hourTens, t.hourUnits)

def Time.minutes (t : Time) : Field := (t.minuteTens, t.minuteUnits)

def Time.withHours (t : Time) (f : Field) : Time := { t with hourTens := f.1, hourUnits := f.2 }

def Time.withMinutes (t : Time) (f : Field) : Time := { t with minuteTens := f.1, minuteUnits := f.2 }

/-- The 16-bit packing of R20: `Ht` in bits 15:12 down to `Mu` in bits 3:0. -/
def Time.packed (t : Time) : BitVec 16 :=
  t.hourTens ++ t.hourUnits ++ t.minuteTens ++ t.minuteUnits

/-- The digits in the order of R61, which is also their order on the display. -/
def Time.digits (t : Time) : List Digit := [t.hourTens, t.hourUnits, t.minuteTens, t.minuteUnits]

/-- `minutes(T)` of R115: the minute of the day. -/
def Time.minuteOfDay (t : Time) : Nat := 60 * fieldValue t.hours + fieldValue t.minutes

/-- `valid_time(d0, d1, d2, d3)` (R116). -/
def validTime (t : Time) : Bool :=
  t.hourTens.toNat ≤ 2 ∧ (t.hourUnits.toNat ≤ 9 ∧ (t.hourTens.toNat ≠ 2 ∨ t.hourUnits.toNat ≤ 3))
    ∧ t.minuteTens.toNat ≤ 5 ∧ t.minuteUnits.toNat ≤ 9

/-- The six keys (R13). -/
inductive Key where
  | increment
  | decrement
  | startEditTime
  | startEditAlarm
  | accept
  | cancel
  deriving DecidableEq, Repr

/-- The key numbers of R94. -/
def Key.number : Key → Nat
  | .increment => 0
  | .decrement => 1
  | .startEditTime => 2
  | .startEditAlarm => 3
  | .accept => 4
  | .cancel => 5

/-- The keys in ascending number, the order in which one poll dispatches its events (R190). -/
def Key.all : List Key := [.increment, .decrement, .startEditTime, .startEditAlarm, .accept, .cancel]

/-- The key of a `KEY` field; none for 6 and 7 (R89, R94). -/
def keyOfNumber (key : BitVec 3) : Option Key := Key.all.find? fun k => k.number = key.toNat

/-- Bit `k` of a level word (R93): the level of key `k`. -/
def keyLevel (levels : BitVec 6) (k : Key) : Bool := levels.getLsbD k.number

/-- An edit state (R12). -/
def Mode.isEdit : Mode → Bool
  | .unconfigured | .showingTime => false
  | .editMinutesOfTime | .editHoursOfTime | .editMinutesOfAlarm | .editHoursOfAlarm => true

/-- The number of a mode (R29); no command reads it. -/
def Mode.number : Mode → Nat
  | .unconfigured => 0
  | .showingTime => 1
  | .editMinutesOfTime => 2
  | .editHoursOfTime => 3
  | .editMinutesOfAlarm => 4
  | .editHoursOfAlarm => 5

/-- The 2-bit status code (R250). -/
def Status.code : Status → BitVec 2
  | .ok => 0#2
  | .invalidArgument => 1#2
  | .notReady => 2#2
  | .undefinedCommand => 3#2

/-- Bit 7 of a buffer entry, the dot (R25). -/
def dotOf (b : Byte) : BitVec 1 := b.extractLsb' 7 1

/-- Bits 6:0 of a buffer entry, the segments (R25). -/
def segmentsOf (b : Byte) : Segments := b.extractLsb' 0 7

/-- The entry `{dot, segments}` (R25). -/
def entryOf (dot : BitVec 1) (segments : Segments) : Byte := dot ++ segments

end Sys2Proof.Machine
end

