-- ==== Sys2Proof/Machine/Bcd.lean ====
section
/-!
DEFINITION. The BCD routines of 40_clock.md R111-R115. They read nothing but their two arguments (R113) and have no value on an
illegal field (R117): there the answer is `none`, and the command that called them faults.
-/

namespace Sys2Proof.Machine

/-- `bcd_inc` (R111): the incremented field, and whether it wrapped. -/
def bcdInc (f : Field) (limits : Limits) : Option (Field × Bool) :=
  if legalField f limits then
    if f.1 = limits.1 ∧ f.2 = limits.2 then some ((0#4, 0#4), true)
    else if f.2 = 9#4 then some ((f.1 + 1#4, 0#4), false)
    else some ((f.1, f.2 + 1#4), false)
  else none

/-- `bcd_dec` (R112). -/
def bcdDec (f : Field) (limits : Limits) : Option Field :=
  if legalField f limits then
    if f.1 = 0#4 ∧ f.2 = 0#4 then some limits
    else if f.2 = 0#4 then some (f.1 - 1#4, 9#4)
    else some (f.1, f.2 - 1#4)
  else none

/-- `time_inc1` (R115): one minute later; the minute wrap carries into the hour. -/
def timeInc1 (t : Time) : Option Time :=
  match bcdInc t.minutes minuteLimits with
  | none => none
  | some (m, false) => some (t.withMinutes m)
  | some (m, true) =>
    match bcdInc t.hours hourLimits with
    | none => none
    | some (h, _) => some ((t.withMinutes m).withHours h)

/-- `time_inc1` repeated (R135). -/
def addMinutes : Nat → Time → Option Time
  | 0, t => some t
  | n + 1, t =>
    match timeInc1 t with
    | none => none
    | some t' => addMinutes n t'

end Sys2Proof.Machine
end

