-- ==== Sys2Proof/Machine/Display.lean ====
section
/-!
DEFINITION. The display unit (41_display.md): the effects R197 lets the mode machine and the tick use without a response, and
the six display commands over them.
-/

namespace Sys2Proof.Machine

/-- The segments of a digit value: `SEG_TABLE` for 0..9, a drawn pattern for 10..15 (R150, R151). -/
def segmentsFor (s : State) (v : Digit) : Segments × State :=
  if h : v.toNat < 10 then (s.params.segTable[v.toNat], s) else s.drawSegments

/-- One lane of WRITE_DIGITS: the segments of entry `i` are replaced and its dot kept (R151). -/
def writeSegments (s : State) (i : Nat) (v : Digit) : State :=
  let drawn := segmentsFor s v
  drawn.2.bufWrite i (entryOf (dotOf (drawn.2.bufRead i)) drawn.1)

/-- The lanes from `i` on, in ascending order (R151). -/
def writeSegmentsFrom (s : State) (i : Nat) : List Digit → State
  | [] => s
  | v :: vs => writeSegmentsFrom (writeSegments s i v) (i + 1) vs

/-- The effect of WRITE_DIGITS on the positions below `min(cnt, N)` (R151). -/
def writeDigitsEffect (s : State) (cnt : Nat) (values : List Digit) : State :=
  writeSegmentsFrom s 0 (values.take (min cnt s.params.digitCount))

/-- `show_digits` (R198). -/
def showDigits (s : State) (t : Time) : State := writeDigitsEffect s 4 t.digits

/-- `show_time()` (R198). -/
def showTime (s : State) : State := showDigits s s.time

/-- `show_edit()` (R198). -/
def showEdit (s : State) : State := showDigits s s.edit

/-- `show_zero()` (R198). -/
def showZero (s : State) : State := showDigits s Time.zero

/-- The effect of SET_FLASH_WINDOW (R155): the window modulo `N + 1`, and the counter cleared for every factor. -/
def setFlashEffect (s : State) (fromDigit toDigit : Nat) (factor : BitVec 16) : State :=
  { s with
    flashFrom := BitVec.ofNat 4 (fromDigit % (s.params.digitCount + 1))
    flashTo := BitVec.ofNat 4 (toDigit % (s.params.digitCount + 1))
    flashFactor := factor
    flashCount := 0#16 }

/-- `flash_minutes()` (R198). -/
def flashMinutes (s : State) : State := setFlashEffect s 2 3 s.params.editFlashFactor

/-- `flash_hours()` (R198). -/
def flashHours (s : State) : State := setFlashEffect s 0 1 s.params.editFlashFactor

/-- `flash_clear()` (R198). -/
def flashClear (s : State) : State := setFlashEffect s 0 0 0#16

/-- The effect of TOGGLE_DOT (R156); an index at or above `N` does nothing. -/
def toggleDotEffect (s : State) (i : Nat) : State :=
  s.bufWrite i (entryOf (~~~dotOf (s.bufRead i)) (segmentsOf (s.bufRead i)))

/-- One dot forced to a value, its segments untouched (R157, R158). -/
def forceDot (s : State) (dot : BitVec 1) (i : Nat) : State :=
  s.bufWrite i (entryOf dot (segmentsOf (s.bufRead i)))

/-- The dots of the entries the mask selects, over the positions below `k` (R157, R158). -/
def forceDots (s : State) (dot : BitVec 1) (mask : Byte) : Nat → State
  | 0 => s
  | k + 1 =>
    let s' := forceDots s dot mask k
    if mask.getLsbD k then forceDot s' dot k else s'

/-- `flash_off(a)` (R153). -/
def flashOff (s : State) (a : Nat) : Bool :=
  s.flashFactor ≠ 0#16 ∧ s.flashFrom.toNat ≤ a ∧ a ≤ s.flashTo.toNat
    ∧ s.flashFactor.toNat / 2 < s.flashCount.toNat

/-- The scan advances to the next digit (R152). -/
def advanceScan (s : State) : State :=
  { s with activeDigit := BitVec.ofNat 3 ((s.activeDigit.toNat + 1) % s.params.digitCount) }

/-- The flash counter steps once a full scan, when the scan is at digit 0, and stands still while flashing is disabled (R152). -/
def stepFlashCount (s : State) : State :=
  if s.flashFactor ≠ 0#16 ∧ s.activeDigit = 0#3 then
    { s with flashCount := BitVec.ofNat 16 ((s.flashCount.toNat + 1) % s.flashFactor.toNat) }
  else s

/-- The byte shown for digit `a`: the entry, its segments suppressed in the off half of the flash cycle (R152). -/
def shownByte (s : State) (a : Nat) : Byte :=
  if flashOff s a then s.bufRead a &&& 0x80#8 else s.bufRead a

/-- The effect of REFRESH (R152), its driver events in order; no state depends on an event. -/
def refreshEffect (s : State) : State :=
  let s' := stepFlashCount (advanceScan s)
  let a := s'.activeDigit.toNat
  ((s'.emit .drvAllOff).emit (.drvSegments (shownByte s' a))).emit (.drvDigit (s'.activeDigit.setWidth 8))

/-- WRITE_DIGITS (R151). -/
def execWriteDigits (cnt : BitVec 4) (v0 v1 v2 v3 v4 v5 v6 v7 : Digit) (s : State) : Result :=
  running s (answer (.ok, writeDigitsEffect s cnt.toNat [v0, v1, v2, v3, v4, v5, v6, v7]))

/-- REFRESH (R152). The moduli are nonzero and the scan position fits its register for every legal `N` (R6, R118). -/
def execRefresh (s : State) : Result :=
  running s <|
    if constructionSucceeds s.params then answer (.ok, refreshEffect s)
    else .fault .illegalParameter

/-- SET_FLASH_WINDOW (R155). -/
def execSetFlashWindow (fromDigit toDigit : BitVec 8) (factor : BitVec 16) (s : State) : Result :=
  running s (answer (.ok, setFlashEffect s fromDigit.toNat toDigit.toNat factor))

/-- TOGGLE_DOT (R156). -/
def execToggleDot (index : BitVec 8) (s : State) : Result :=
  running s (answer (.ok, toggleDotEffect s index.toNat))

/-- SET_DOTS (R157). -/
def execSetDots (mask : BitVec 8) (s : State) : Result :=
  running s (answer (.ok, forceDots s 1#1 mask s.params.digitCount))

/-- CLEAR_DOTS (R158). -/
def execClearDots (mask : BitVec 8) (s : State) : Result :=
  running s (answer (.ok, forceDots s 0#1 mask s.params.digitCount))

end Sys2Proof.Machine
end

