-- ==== Sys2Proof/Machine/Flags.lean ====
section
/-!
DEFINITION. The three one-bit flags of 10_state.md R23 and every change the spec makes to them, with the alarm notification that
goes with the start and the stop of a ring (60_exceptions.md R258).
-/

namespace Sys2Proof.Machine

/-- A successful SET_TIME sets `CLOCK_VALID`; nothing clears it (R23). -/
def State.setClockValid (s : State) : State := { s with clockValid := true }

/-- The effect of TOGGLE_ALARM: `ALARM_EN <- 1 - ALARM_EN` (R134). -/
def State.toggleAlarmEn (s : State) : State := { s with alarmEn := !s.alarmEn }

/-- An alarm commit enables the alarm (R219). -/
def State.enableAlarm (s : State) : State := { s with alarmEn := true }

/-- The alarm starts sounding: `RINGING <- 1` and `ALARM_NOTIFY(1)` (R123, R258). -/
def State.startRing (s : State) : State := { s with ringing := true }.emit (.alarmNotify true)

/-- The alarm stops sounding: `RINGING <- 0` and `ALARM_NOTIFY(0)` (R135, R136, R258). -/
def State.stopRing (s : State) : State := { s with ringing := false }.emit (.alarmNotify false)

end Sys2Proof.Machine
end

