-- ==== Sys2Proof/Machine/Clock.lean ====
section
/-!
DEFINITION. The clock unit (40_clock.md): the tick and its internal actions (R120-R124), the effects R197 lets the mode machine
use without a response, and the eight clock commands.
-/

namespace Sys2Proof.Machine

/-- `check_alarm` (R123). -/
def checkAlarm (s : State) : State :=
  if s.alarmEn ∧ s.time = s.alarmTime then s.startRing else s

/-- `minute_display_update` (R122). -/
def minuteDisplayUpdate (s : State) : State :=
  if s.mode = .showingTime then showTime s else s

/-- `minute_rollover` (R121). -/
def minuteRollover (s : State) : Option State :=
  match timeInc1 s.time with
  | none => none
  | some t => some (minuteDisplayUpdate (checkAlarm { s with time := t }))

/-- `half_second` (R124). -/
def halfSecond (s : State) : State := toggleDotEffect s s.params.separatorDigit.toNat

/-- `TICK_COUNT <- (TICK_COUNT + 1) mod TPS` (R120). -/
def countTick (s : State) : State :=
  { s with tickCount := BitVec.ofNat 16 ((s.tickCount.toNat + 1) % s.params.ticksPerSecond.toNat) }

/-- One second has elapsed: `SECONDS` steps, and its wrap from 59 rolls the minute over (R120). -/
def secondElapsed (s : State) : Option State :=
  if s.seconds = 59#6 then minuteRollover { s with seconds := 0#6 }
  else some { s with seconds := s.seconds + 1#6 }

/-- The new tick count is one of the two half seconds (R120). -/
def atHalfSecond (s : State) : Bool :=
  s.tickCount.toNat = 0 ∨ s.tickCount.toNat = s.params.ticksPerSecond.toNat / 2

/-- The half-second event, where it falls on this tick (R120). -/
def halfSecondIfDue (s : State) : State := if atHalfSecond s then halfSecond s else s

/-- The effect of one tick (R120): the minute rollover runs before the half-second toggle (R257). -/
def tickEffect (s : State) : Option State :=
  let s' := countTick s
  if s'.tickCount = 0#16 then (secondElapsed s').map halfSecondIfDue else some (halfSecondIfDue s')

/-- The effect of SET_TIME and its status (R131). -/
def setTimeEffect (s : State) (cnt : BitVec 4) (t : Time) : Status × State :=
  if cnt = 4#4 ∧ validTime t then
    (.ok, { s with time := t, seconds := 0#6 }.setClockValid)
  else (.invalidArgument, s)

/-- The effect of SET_ALARM and its status (R133). -/
def setAlarmEffect (s : State) (t : Time) : Status × State :=
  if validTime t then (.ok, { s with alarmTime := t }) else (.invalidArgument, s)

/-- The effect of SNOOZE and its status (R135). -/
def snoozeEffect (s : State) (minutes : BitVec 8) : Option (Status × State) :=
  if s.ringing then
    match addMinutes minutes.toNat s.alarmTime with
    | none => none
    | some t => some (.ok, { s with alarmTime := t }.stopRing)
  else some (.notReady, s)

/-- The effect of CANCEL_ALARM (R136). -/
def cancelAlarmEffect (s : State) : State := if s.ringing then s.stopRing else s

/-- ADVANCE_TICK (R120): the response carries the new `TICK_COUNT`. -/
def execAdvanceTick (s : State) : Result :=
  running s <|
    if s.params.ticksPerSecond = 0#16 then .fault .illegalParameter
    else match tickEffect s with
      | none => .fault .illegalBcdField
      | some s' => .next (s'.respond .ok s'.tickCount)

/-- GET_TIME (R130): the data is `TIME` even when no time has been set. -/
def execGetTime (s : State) : Result :=
  running s (.next (s.respond (if s.clockValid then .ok else .notReady) s.time.packed))

/-- SET_TIME (R131). -/
def execSetTime (cnt : BitVec 4) (d0 d1 d2 d3 : Digit) (s : State) : Result :=
  running s (answer (setTimeEffect s cnt ⟨d0, d1, d2, d3⟩))

/-- GET_ALARM (R132). -/
def execGetAlarm (s : State) : Result := running s (.next (s.respond .ok s.alarmTime.packed))

/-- SET_ALARM (R133). -/
def execSetAlarm (d0 d1 d2 d3 : Digit) (s : State) : Result :=
  running s (answer (setAlarmEffect s ⟨d0, d1, d2, d3⟩))

/-- TOGGLE_ALARM (R134). -/
def execToggleAlarm (s : State) : Result := running s (answer (.ok, s.toggleAlarmEn))

/-- SNOOZE (R135). -/
def execSnooze (minutes : BitVec 8) (s : State) : Result :=
  running s <|
    match snoozeEffect s minutes with
    | none => .fault .illegalBcdField
    | some r => answer r

/-- CANCEL_ALARM (R136). -/
def execCancelAlarm (s : State) : Result := running s (answer (.ok, cancelAlarmEffect s))

end Sys2Proof.Machine
end

