-- ==== Sys2Proof/Machine/Keypad.lean ====
section
/-!
DEFINITION. The keypad unit (42_keypad_mode.md): the cells of the transition table (R195, R200-R219), the delivery of one event
(R193), the idle timeout (R222), and the two key commands. A cell answers `none` only where a BCD routine meets an illegal field
(R117).
-/

namespace Sys2Proof.Machine

/-- `leave_edit()` (R198). -/
def leaveEdit (s : State) : State :=
  if s.clockValid then showTime { flashClear s with mode := .showingTime }
  else showZero { flashClear s with mode := .unconfigured }

/-- The edit buffer replaced, then shown (R200-R203). -/
def editAndShow (s : State) (t : Time) : State := showEdit { s with edit := t }

/-- Increment in a minutes variant: the carry is dropped (R200). -/
def incrementMinutes (s : State) : Option State :=
  (bcdInc s.edit.minutes minuteLimits).map fun r => editAndShow s (s.edit.withMinutes r.1)

/-- Increment in an hours variant (R201). -/
def incrementHours (s : State) : Option State :=
  (bcdInc s.edit.hours hourLimits).map fun r => editAndShow s (s.edit.withHours r.1)

/-- Decrement in a minutes variant (R202). -/
def decrementMinutes (s : State) : Option State :=
  (bcdDec s.edit.minutes minuteLimits).map fun f => editAndShow s (s.edit.withMinutes f)

/-- Decrement in an hours variant (R203). -/
def decrementHours (s : State) : Option State :=
  (bcdDec s.edit.hours hourLimits).map fun f => editAndShow s (s.edit.withHours f)

/-- A cell with no transition (R196, R204, R205, R210). -/
def noTransition (s : State) : Option State := some s

/-- Accept in ShowingTime (R206): snooze while ringing, else enable the alarm. -/
def acceptShowing (s : State) : Option State :=
  if s.ringing then (snoozeEffect s s.params.snoozeMinutes).map Prod.snd
  else if s.alarmEn then some s
  else some s.toggleAlarmEn

/-- Cancel in ShowingTime (R207): cancel a ring, else disable the alarm. -/
def cancelShowing (s : State) : Option State :=
  if s.ringing then some (cancelAlarmEffect s)
  else if s.alarmEn then some s.toggleAlarmEn
  else some s

/-- Entering a minutes edit: the seed, the mode, the display and the flash window (R208, R209). -/
def startEdit (s : State) (mode : Mode) (seed : Time) : Option State :=
  some (flashMinutes (showEdit { s with edit := seed, mode := mode }))

/-- Moving to the hours variant of an edit; `EDIT` is kept (R212, R214). -/
def toHours (s : State) (mode : Mode) : Option State := some (flashHours { s with mode := mode })

/-- Moving back to the minutes variant of an edit; `EDIT` is kept (R213, R217). -/
def toMinutes (s : State) (mode : Mode) : Option State := some (flashMinutes { s with mode := mode })

/-- Cancel in a minutes variant discards the edit (R211). -/
def discardEdit (s : State) : Option State := some (leaveEdit s)

/-- Accept in EditHoursOfTime commits the time (R215); a failed commit changes nothing (R216). -/
def commitTime (s : State) : Option State :=
  match setTimeEffect s 4#4 s.edit with
  | (.ok, s') => some (leaveEdit s')
  | (_, _) => some s

/-- Accept in EditHoursOfAlarm commits the alarm and enables it (R219); a failed commit changes nothing (R216). -/
def commitAlarm (s : State) : Option State :=
  match setAlarmEffect s s.edit with
  | (.ok, s') => some (leaveEdit s'.enableAlarm)
  | (_, _) => some s

/-- `handle(MODE, k)`: the complete table of R195, one line a cell. -/
def handle (s : State) : Mode → Key → Option State
  | .unconfigured, .increment => noTransition s
  | .unconfigured, .decrement => noTransition s
  | .unconfigured, .startEditTime => startEdit s .editMinutesOfTime Time.zero
  | .unconfigured, .startEditAlarm => startEdit s .editMinutesOfAlarm Time.zero
  | .unconfigured, .accept => noTransition s
  | .unconfigured, .cancel => noTransition s
  | .showingTime, .increment => noTransition s
  | .showingTime, .decrement => noTransition s
  | .showingTime, .startEditTime => startEdit s .editMinutesOfTime s.time
  | .showingTime, .startEditAlarm => startEdit s .editMinutesOfAlarm s.alarmTime
  | .showingTime, .accept => acceptShowing s
  | .showingTime, .cancel => cancelShowing s
  | .editMinutesOfTime, .increment => incrementMinutes s
  | .editMinutesOfTime, .decrement => decrementMinutes s
  | .editMinutesOfTime, .startEditTime => noTransition s
  | .editMinutesOfTime, .startEditAlarm => noTransition s
  | .editMinutesOfTime, .accept => toHours s .editHoursOfTime
  | .editMinutesOfTime, .cancel => discardEdit s
  | .editHoursOfTime, .increment => incrementHours s
  | .editHoursOfTime, .decrement => decrementHours s
  | .editHoursOfTime, .startEditTime => noTransition s
  | .editHoursOfTime, .startEditAlarm => noTransition s
  | .editHoursOfTime, .accept => commitTime s
  | .editHoursOfTime, .cancel => toMinutes s .editMinutesOfTime
  | .editMinutesOfAlarm, .increment => incrementMinutes s
  | .editMinutesOfAlarm, .decrement => decrementMinutes s
  | .editMinutesOfAlarm, .startEditTime => noTransition s
  | .editMinutesOfAlarm, .startEditAlarm => noTransition s
  | .editMinutesOfAlarm, .accept => toHours s .editHoursOfAlarm
  | .editMinutesOfAlarm, .cancel => discardEdit s
  | .editHoursOfAlarm, .increment => incrementHours s
  | .editHoursOfAlarm, .decrement => decrementHours s
  | .editHoursOfAlarm, .startEditTime => noTransition s
  | .editHoursOfAlarm, .startEditAlarm => noTransition s
  | .editHoursOfAlarm, .accept => commitAlarm s
  | .editHoursOfAlarm, .cancel => toMinutes s .editMinutesOfAlarm

/-- Every key event in an edit state restarts the idle timer (R193). -/
def restartIdle (s : State) : State := if s.mode.isEdit then { s with idleCount := 0#16 } else s

/-- `dispatch(k, dir)` (R193): a release runs no handler (R194). -/
def dispatch (s : State) (k : Key) : Edge → Option State
  | .press => handle (restartIdle s) s.mode k
  | .release => some (restartIdle s)

/-- The events of one poll, over the keys listed: one for each key whose level changed, a press where the new level is 1
(R190, R191). -/
def dispatchEdges (changed levels : BitVec 6) : List Key → State → Option State
  | [], s => some s
  | k :: ks, s =>
    if keyLevel changed k then
      match dispatch s k (if keyLevel levels k then .press else .release) with
      | none => none
      | some s' => dispatchEdges changed levels ks s'
    else dispatchEdges changed levels ks s

/-- `idle_tick()` (R222). -/
def idleTick (s : State) : Option State :=
  if s.mode.isEdit ∧ s.params.idleLimit ≠ 0#16 then
    if s.idleCount + 1#16 = s.params.idleLimit then handle { s with idleCount := 0#16 } s.mode .cancel
    else some { s with idleCount := s.idleCount + 1#16 }
  else some s

/-- The effect of POLL_KEYS (R190). -/
def pollKeysEffect (s : State) (levels : BitVec 6) : Option State :=
  let changed := levels ^^^ s.keyPrev
  match dispatchEdges changed levels Key.all { s with keyPrev := levels } with
  | none => none
  | some s' => if changed = 0#6 then idleTick s' else some s'

/-- POLL_KEYS (R190). -/
def execPollKeys (levels : BitVec 6) (s : State) : Result := running s (finish (pollKeysEffect s levels))

/-- KEY_EVENT (R192). No word spells a KEY_EVENT with key 6 or 7; such a term does what the block does with such a word (R92). -/
def execKeyEvent (key : BitVec 3) (edge : Edge) (s : State) : Result :=
  running s <|
    match keyOfNumber key with
    | none => undefinedCommand s
    | some k => finish (dispatch s k edge)

end Sys2Proof.Machine
end

