-- ==== Sys2Proof/Machine/Dispatch.lean ====
section
/-!
DEFINITION. The one definition that gives every command of the opcode map (30_encoding.md R90) its meaning, an arm a command.
-/

namespace Sys2Proof.Machine

def exec (i : Instr) (s : State) : Host.Outcome State Fault Refusal :=
  match i with
  | .advanceTick => Sys2Proof.Machine.execAdvanceTick s
  | .getTime => Sys2Proof.Machine.execGetTime s
  | .setTime cnt d0 d1 d2 d3 => Sys2Proof.Machine.execSetTime cnt d0 d1 d2 d3 s
  | .getAlarm => Sys2Proof.Machine.execGetAlarm s
  | .setAlarm d0 d1 d2 d3 => Sys2Proof.Machine.execSetAlarm d0 d1 d2 d3 s
  | .toggleAlarm => Sys2Proof.Machine.execToggleAlarm s
  | .snooze minutes => Sys2Proof.Machine.execSnooze minutes s
  | .cancelAlarm => Sys2Proof.Machine.execCancelAlarm s
  | .writeDigits cnt v0 v1 v2 v3 v4 v5 v6 v7 => Sys2Proof.Machine.execWriteDigits cnt v0 v1 v2 v3 v4 v5 v6 v7 s
  | .refresh => Sys2Proof.Machine.execRefresh s
  | .setFlashWindow fromDigit toDigit factor => Sys2Proof.Machine.execSetFlashWindow fromDigit toDigit factor s
  | .toggleDot index => Sys2Proof.Machine.execToggleDot index s
  | .setDots mask => Sys2Proof.Machine.execSetDots mask s
  | .clearDots mask => Sys2Proof.Machine.execClearDots mask s
  | .pollKeys levels => Sys2Proof.Machine.execPollKeys levels s
  | .keyEvent key edge => Sys2Proof.Machine.execKeyEvent key edge s

end Sys2Proof.Machine
end

