-- ==== Sys2Proof/Machine/Step.lean ====
section
/-!
DEFINITION. One step: the next command word of the stream is taken and executed (20_memory.md R63, 30_encoding.md R80).
-/

namespace Sys2Proof.Machine

/-- A halted block has no step (R253). Otherwise the next word that has arrived is taken: a command runs, an undefined word is
answered (R92, R254); with no word there is nothing to do (assumption log 2). -/
def step (s : State) : Host.Outcome State Fault Refusal :=
  running s <|
    match s.nextCommand with
    | none => .next s.wait
    | some (w, s') =>
      match decode w with
      | .ok i => exec i s'
      | .error _ => undefinedCommand s'

/-- The state in which the instruction of the bits `w` is the very next command (assumption log 1). -/
def State.withFetchWord (s : State) (nbits w : Nat) : State := s.deliver nbits w

end Sys2Proof.Machine
end

