-- ==== Sys2Proof/Machine/Assembler.lean ====
section
/-!
DEFINITION. The assembler syntax of 30_encoding.md R96, one command a line, and the pseudo-instructions of R99. The block does not
see either: a line stands for command words, which are delivered like any others.
-/

namespace Sys2Proof.Machine

/-- A line of a program: a command (R96) or a pseudo-instruction (R99). -/
inductive AsmLine where
  | command (i : Instr)
  | press (key : BitVec 3)
  | release (key : BitVec 3)
  | tap (key : BitVec 3)
  | ticks (n : Nat)
  | scan
  | clearFlash
  | showTime
  deriving DecidableEq, Repr

/-- The commands of a line, in order (R99). `SCAN` depends on the digit count, and `SHOW_TIME` on the digits its GET_TIME
returns. -/
def AsmLine.expand (digitCount : Nat) (returned : Time) : AsmLine → List Instr
  | .command i => [i]
  | .press key => [.keyEvent key .press]
  | .release key => [.keyEvent key .release]
  | .tap key => [.keyEvent key .press, .keyEvent key .release]
  | .ticks n => List.replicate n .advanceTick
  | .scan => List.replicate digitCount .refresh
  | .clearFlash => [.setFlashWindow 0#8 0#8 0#16]
  | .showTime =>
    [.getTime, .writeDigits 4#4 returned.hourTens returned.hourUnits returned.minuteTens returned.minuteUnits
      0#4 0#4 0#4 0#4]

/-- The words of a line (R80, R99). -/
def AsmLine.words (digitCount : Nat) (returned : Time) (line : AsmLine) : List Word :=
  (line.expand digitCount returned).map encode

/-- The value of a digit character in a base up to 16. -/
def digitValue (base : Nat) (c : Char) : Option Nat :=
  let v := if '0' ≤ c ∧ c ≤ '9' then c.toNat - '0'.toNat
    else if 'a' ≤ c ∧ c ≤ 'f' then c.toNat - 'a'.toNat + 10
    else if 'A' ≤ c ∧ c ≤ 'F' then c.toNat - 'A'.toNat + 10
    else base
  if v < base then some v else none

/-- The digits of a number, after the value read so far. -/
def readDigits (base acc : Nat) : List Char → Option Nat
  | [] => some acc
  | c :: cs =>
    match digitValue base c with
    | none => none
    | some v => readDigits base (base * acc + v) cs

/-- A number: decimal, `0x` hexadecimal or `0b` binary (R96). -/
def readNumber : List Char → Option Nat
  | [] => none
  | ['0', 'x'] => none
  | ['0', 'b'] => none
  | '0' :: 'x' :: cs => readDigits 16 0 cs
  | '0' :: 'b' :: cs => readDigits 2 0 cs
  | cs => readDigits 10 0 cs

/-- A number that fits an operand field of `len` bits. -/
def readField (len : Nat) (cs : List Char) : Option (BitVec len) :=
  match readNumber cs with
  | none => none
  | some n => if n < 2 ^ len then some (BitVec.ofNat len n) else none

/-- A time `HH:MM`, each character a hexadecimal digit (R96). -/
def readTime : List Char → Option Time
  | [a, b, ':', c, d] =>
    match digitValue 16 a, digitValue 16 b, digitValue 16 c, digitValue 16 d with
    | some a, some b, some c, some d =>
      some ⟨BitVec.ofNat 4 a, BitVec.ofNat 4 b, BitVec.ofNat 4 c, BitVec.ofNat 4 d⟩
    | _, _, _, _ => none
  | _ => none

/-- A key, by name or by number 0..5 (R94, R96). -/
def readKey (cs : List Char) : Option (BitVec 3) :=
  match String.ofList cs with
  | "INC" => some 0#3
  | "DEC" => some 1#3
  | "EDIT_TIME" => some 2#3
  | "EDIT_ALARM" => some 3#3
  | "ACCEPT" => some 4#3
  | "CANCEL" => some 5#3
  | _ =>
    match readField 3 cs with
    | none => none
    | some k => if keyNumberOk k then some k else none

/-- `PRESS` or `RELEASE` (R96). -/
def readEdge (cs : List Char) : Option Edge :=
  match String.ofList cs with
  | "PRESS" => some .press
  | "RELEASE" => some .release
  | _ => none

/-- The values of a WRITE_DIGITS line, one to eight of them; omitted values are 0 (R96). -/
def readValues : Nat → List (List Char) → Option (List Digit)
  | 0, [] => some []
  | 0, _ :: _ => none
  | n + 1, [] => some (List.replicate (n + 1) 0#4)
  | n + 1, cs :: rest =>
    match readField 4 cs, readValues n rest with
    | some v, some vs => some (v :: vs)
    | _, _ => none

/-- A line of one 8-bit operand. -/
def readByteLine (operands : List (List Char)) (mk : BitVec 8 → Instr) : Option AsmLine :=
  match operands with
  | [b] => (readField 8 b).map fun v => .command (mk v)
  | _ => none

/-- A line of one key operand. -/
def readKeyLine (operands : List (List Char)) (mk : BitVec 3 → AsmLine) : Option AsmLine :=
  match operands with
  | [k] => (readKey k).map mk
  | _ => none

/-- A line of no operand. -/
def readBareLine (operands : List (List Char)) (line : AsmLine) : Option AsmLine :=
  if operands = [] then some line else none

/-- `SET_TIME HH:MM [, cnt]`; `cnt` defaults to 4 (R96). -/
def readSetTime : List (List Char) → Option AsmLine
  | [t] => (readTime t).map fun t =>
      .command (.setTime 4#4 t.hourTens t.hourUnits t.minuteTens t.minuteUnits)
  | [t, cnt] =>
    match readTime t, readField 4 cnt with
    | some t, some cnt => some (.command (.setTime cnt t.hourTens t.hourUnits t.minuteTens t.minuteUnits))
    | _, _ => none
  | _ => none

/-- `SET_ALARM HH:MM` (R96). -/
def readSetAlarm : List (List Char) → Option AsmLine
  | [t] => (readTime t).map fun t =>
      .command (.setAlarm t.hourTens t.hourUnits t.minuteTens t.minuteUnits)
  | _ => none

/-- `WRITE_DIGITS cnt, v0 [, v1 ... v7]` (R96). -/
def readWriteDigits : List (List Char) → Option AsmLine
  | [] => none
  | [_] => none
  | cnt :: v0 :: values =>
    match readField 4 cnt, readValues 8 (v0 :: values) with
    | some cnt, some [v0, v1, v2, v3, v4, v5, v6, v7] =>
      some (.command (.writeDigits cnt v0 v1 v2 v3 v4 v5 v6 v7))
    | _, _ => none

/-- `SET_FLASH_WINDOW from, to, factor` (R96). -/
def readSetFlashWindow : List (List Char) → Option AsmLine
  | [f, t, factor] =>
    match readField 8 f, readField 8 t, readField 16 factor with
    | some f, some t, some factor => some (.command (.setFlashWindow f t factor))
    | _, _, _ => none
  | _ => none

/-- `POLL_KEYS levels` (R96). -/
def readPollKeys : List (List Char) → Option AsmLine
  | [levels] => (readField 6 levels).map fun v => .command (.pollKeys v)
  | _ => none

/-- `KEY_EVENT key, PRESS|RELEASE` (R96). -/
def readKeyEvent : List (List Char) → Option AsmLine
  | [key, edge] =>
    match readKey key, readEdge edge with
    | some key, some edge => some (.command (.keyEvent key edge))
    | _, _ => none
  | _ => none

/-- `TICKS n` (R99). -/
def readTicks : List (List Char) → Option AsmLine
  | [n] => (readNumber n).map .ticks
  | _ => none

/-- The lines of R96 and R99 by their first word. -/
def readOperands (mnemonic : List Char) (operands : List (List Char)) : Option AsmLine :=
  match String.ofList mnemonic with
  | "ADVANCE_TICK" => readBareLine operands (.command .advanceTick)
  | "GET_TIME" => readBareLine operands (.command .getTime)
  | "SET_TIME" => readSetTime operands
  | "GET_ALARM" => readBareLine operands (.command .getAlarm)
  | "SET_ALARM" => readSetAlarm operands
  | "TOGGLE_ALARM" => readBareLine operands (.command .toggleAlarm)
  | "SNOOZE" => readByteLine operands .snooze
  | "CANCEL_ALARM" => readBareLine operands (.command .cancelAlarm)
  | "WRITE_DIGITS" => readWriteDigits operands
  | "REFRESH" => readBareLine operands (.command .refresh)
  | "SET_FLASH_WINDOW" => readSetFlashWindow operands
  | "TOGGLE_DOT" => readByteLine operands .toggleDot
  | "SET_DOTS" => readByteLine operands .setDots
  | "CLEAR_DOTS" => readByteLine operands .clearDots
  | "POLL_KEYS" => readPollKeys operands
  | "KEY_EVENT" => readKeyEvent operands
  | "PRESS" => readKeyLine operands .press
  | "RELEASE" => readKeyLine operands .release
  | "TAP" => readKeyLine operands .tap
  | "TICKS" => readTicks operands
  | "SCAN" => readBareLine operands .scan
  | "CLEAR_FLASH" => readBareLine operands .clearFlash
  | "SHOW_TIME" => readBareLine operands .showTime
  | _ => none

/-- A blank between the parts of a line. -/
def isBlank (c : Char) : Bool := c = ' ' ∨ c = '\t'

/-- The text without blanks at its two ends. -/
def trimBlanks (cs : List Char) : List Char :=
  ((cs.dropWhile isBlank).reverse.dropWhile isBlank).reverse

/-- The parts of an operand list, between its commas. -/
def splitCommas : List Char → List (List Char)
  | [] => [[]]
  | c :: cs =>
    if c = ',' then [] :: splitCommas cs
    else match splitCommas cs with
      | [] => [[c]]
      | part :: parts => (c :: part) :: parts

/-- The operands of a line, from the text after its first word. -/
def operandsOf (cs : List Char) : List (List Char) :=
  if trimBlanks cs = [] then [] else (splitCommas cs).map trimBlanks

/-- One line of a program; a `;` starts a comment (R96). -/
def readLine (line : String) : Option AsmLine :=
  let text := trimBlanks (line.toList.takeWhile fun c => c ≠ ';')
  readOperands (text.takeWhile fun c => !isBlank c) (operandsOf (text.dropWhile fun c => !isBlank c))

end Sys2Proof.Machine
end

