-- ==== Sys2Proof/Safety.lean ====
section
/-!
DEFINITION. What a reachable state keeps: the invariants of 10_state.md R39, with the form of the buffer and the legality of the
parameters they rest on.
-/

namespace Sys2Proof.Machine

/-- The parameter values R6 calls legal, where a width does not already say so. -/
def legalParams (p : Params) : Prop :=
  1 ≤ p.digitCount ∧ p.digitCount ≤ maxDigits ∧ p.ticksPerSecond ≠ 0#16

/-- R39, the clock unit: legal time digits, and counters below their moduli. -/
structure State.ClockInv (s : State) : Prop where
  time_legal : validTime s.time = true
  alarm_legal : validTime s.alarmTime = true
  edit_legal : validTime s.edit = true
  tick_lt : s.tickCount.toNat < s.params.ticksPerSecond.toNat
  seconds_lt : s.seconds.toNat < 60

/-- R39, the display unit, with the canonical form of the buffer, which lists no entry at or above `N` (R25). -/
structure State.DisplayInv (s : State) : Prop where
  buf_wf : s.buf.wf
  buf_lt : ∀ c ∈ s.buf, c.1 < s.params.digitCount
  active_lt : s.activeDigit.toNat < s.params.digitCount
  from_le : s.flashFrom.toNat ≤ s.params.digitCount
  to_le : s.flashTo.toNat ≤ s.params.digitCount
  count_zero : s.flashFactor = 0#16 → s.flashCount = 0#16
  count_lt : s.flashFactor ≠ 0#16 → s.flashCount.toNat < s.flashFactor.toNat

/-- R39, the idle timer, and R221: no ShowingTime without a time. -/
structure State.ModeInv (s : State) : Prop where
  idle_zero : s.mode.isEdit = false ∨ s.params.idleLimit = 0#16 → s.idleCount = 0#16
  idle_lt : s.mode.isEdit = true → s.params.idleLimit ≠ 0#16 → s.idleCount.toNat < s.params.idleLimit.toNat
  showing_valid : s.mode = .showingTime → s.clockValid = true

/-- The invariant of a running block. -/
structure State.Inv (s : State) : Prop where
  legal : legalParams s.params
  running : s.halted = false
  clock : s.ClockInv
  display : s.DisplayInv
  modes : s.ModeInv

end Sys2Proof.Machine
end

