-- ==== Sys2Proof/Certificates/Slice0/Obligations.lean ====
section
/-!
DEFINITION. The statements for the provers: what the numbered rules of spec/ say the block does, as propositions over the model.
A result is stated as an equation on the next state, so that it says what is written AND what is left unchanged: the equation
names every field that changes. Where the display buffer changes, the buffer is left out of that equation and stated entry by
entry. Every statement holds for every value of the parameters and of the free values.
-/

open Sys2Proof Sys2Proof.Machine

/-! ## What the statements speak of -/

/-- The rows of spec/opcode_table.json: the bits a command of the row has (`match`) and the bits they are read under (`mask`). -/
def Sys2Proof.Stated.opcodeRows : List (Word × Word) :=
  [(0x0100000000000000#64, 0xFFFFFFFFFFFFFFFF#64),
   (0x0200000000000000#64, 0xFFFFFFFFFFFFFFFF#64),
   (0x0300000000000000#64, 0xFFFFFFF00000FFFF#64),
   (0x0400000000000000#64, 0xFFFFFFFFFFFFFFFF#64),
   (0x0500000000000000#64, 0xFFFFFFFF0000FFFF#64),
   (0x0600000000000000#64, 0xFFFFFFFFFFFFFFFF#64),
   (0x0700000000000000#64, 0xFFFFFFFFFFFFFF00#64),
   (0x0800000000000000#64, 0xFFFFFFFFFFFFFFFF#64),
   (0x1000000000000000#64, 0xFFFFFFF000000000#64),
   (0x1100000000000000#64, 0xFFFFFFFFFFFFFFFF#64),
   (0x1200000000000000#64, 0xFFFFFFFF00000000#64),
   (0x1300000000000000#64, 0xFFFFFFFFFFFFFF00#64),
   (0x1400000000000000#64, 0xFFFFFFFFFFFFFF00#64),
   (0x1500000000000000#64, 0xFFFFFFFFFFFFFF00#64),
   (0x2000000000000000#64, 0xFFFFFFFFFFFFFFC0#64),
   (0x2100000000000000#64, 0xFFFFFFFFFFFFFEF8#64)]

/-- The words R92 calls undefined: no row of the table reads them, or they are a KEY_EVENT with key 6 or 7. -/
def Sys2Proof.Stated.undefinedWord (w : Word) : Prop :=
  (∀ row ∈ Stated.opcodeRows, w &&& row.2 ≠ row.1) ∨
    (w &&& 0xFFFFFFFFFFFFFEF8#64 = 0x2100000000000000#64 ∧ 6 ≤ (w &&& 7#64).toNat)

/-- The events the display driver receives (R159). -/
def Sys2Proof.Stated.isDriverEvent : Event → Bool
  | .drvAllOff | .drvSegments _ | .drvDigit _ => true
  | .alarmNotify _ | .response _ _ => false

/-- The digit a DRV_DIGIT event enables. -/
def Sys2Proof.Stated.drivenDigit : Event → Option Nat
  | .drvDigit i => some i.toNat
  | _ => none

def Sys2Proof.Stated.isResponse : Event → Bool
  | .response _ _ => true
  | _ => false

/-- The registers of R282's table, but for `HALTED`. -/
def Sys2Proof.Stated.ResetRegisters (s : State) : Prop :=
  s.time.packed = 0x0000#16 ∧ s.tickCount = 0 ∧ s.seconds = 0 ∧ s.clockValid = false ∧
    s.alarmTime.packed = 0x0000#16 ∧ s.alarmEn = false ∧ s.ringing = false ∧
    (∀ i < s.params.digitCount, s.bufRead i = 0x00#8) ∧ s.activeDigit = 0 ∧ s.flashFrom = 0 ∧ s.flashTo = 0 ∧
    s.flashFactor = 0 ∧ s.flashCount = 0 ∧ s.keyPrev = 0b000000#6 ∧ s.mode = .unconfigured ∧
    s.edit.packed = 0x0000#16 ∧ s.idleCount = 0

/-- The new value of `TICK_COUNT` (R120). -/
def Sys2Proof.Stated.nextTick (s : State) : Nat :=
  (s.tickCount.toNat + 1) % s.params.ticksPerSecond.toNat

/-- The pattern of a digit value 0..9 in `SEG_TABLE` (R150). -/
def Sys2Proof.Stated.pattern (s : State) (v : Digit) : Segments := (s.params.segTable[v.toNat]?).getD 0#7

/-- The entry `b` with its dot kept and its segments replaced by the pattern of `v` (R151). -/
def Sys2Proof.Stated.entryShowing (s : State) (b : Byte) (v : Digit) : Byte :=
  (b &&& 0x80#8) ||| (Stated.pattern s v).setWidth 8

/-- What entry `i` reads as after `show_digits` of the time `d` (R198): the first four entries below `N` show its digits and keep
their dots, every other entry is as before. -/
def Sys2Proof.Stated.entryAfterShow (s : State) (d : Time) (i : Nat) : Byte :=
  if i < s.params.digitCount then
    match i with
    | 0 => Stated.entryShowing s (s.bufRead 0) d.hourTens
    | 1 => Stated.entryShowing s (s.bufRead 1) d.hourUnits
    | 2 => Stated.entryShowing s (s.bufRead 2) d.minuteTens
    | 3 => Stated.entryShowing s (s.bufRead 3) d.minuteUnits
    | _ => s.bufRead i
  else s.bufRead i

/-- `t` differs from `s` in the display buffer alone, and shows the time `d` there. -/
def Sys2Proof.Stated.ShowsFrom (s t : State) (d : Time) : Prop :=
  { t with buf := s.buf } = s ∧ ∀ i, t.bufRead i = Stated.entryAfterShow s d i

/-- The state an edit state is left for (R198, R211): ShowingTime with the time shown if one was set, else Unconfigured with
00:00 shown; flashing cleared either way. `t` is compared with `s`, whose time and flags are final. -/
def Sys2Proof.Stated.LeavesEdit (s t : State) : Prop :=
  Stated.ShowsFrom
    { s with
      mode := if s.clockValid then .showingTime else .unconfigured
      flashFrom := 0#4, flashTo := 0#4, flashFactor := 0#16, flashCount := 0#16 }
    t (if s.clockValid then s.time else Time.zero)

/-- `s` with the flash window of the edited digits (R198, R155). -/
def Sys2Proof.Stated.flashing (s : State) (fromDigit toDigit : Nat) : State :=
  { s with
    flashFrom := BitVec.ofNat 4 (fromDigit % (s.params.digitCount + 1))
    flashTo := BitVec.ofNat 4 (toDigit % (s.params.digitCount + 1))
    flashFactor := s.params.editFlashFactor
    flashCount := 0#16 }

/-- `s` as a key event leaves it before any handler runs: the idle timer restarted in an edit state (R193), and with the event's
own response at the end of the trace. -/
def Sys2Proof.Stated.keyed (s : State) : State :=
  { s with
    idleCount := if s.mode.isEdit then 0#16 else s.idleCount
    trace := s.trace ++ [.response .ok 0x0000#16] }

/-- The events of a poll: each key whose level changed, in ascending number, pressed where the new level is 1 (R190, R191). -/
def Sys2Proof.Stated.pollEvents (previous levels : BitVec 6) : List (Key × Edge) :=
  Key.all.filterMap fun k =>
    if levels.getLsbD k.number = previous.getLsbD k.number then none
    else some (k, if levels.getLsbD k.number then .press else .release)

/-! ## Encoding -/

/-- The decoder reads back every command from its word, with every operand at every value its field admits (R81-R93). -/
def Obligations.DecodeEncodeRoundTrip : Prop :=
  ∀ i : Instr, i.wellFormed = true → decode (encode i) = .ok i

/-- A word has one reading: what the decoder reads is a command, and its word is the word read, so no bit of a defined word is
ignored (R92: a set reserved or unused bit makes the word undefined). -/
def Obligations.DecodedWordEncodesBack : Prop :=
  ∀ (w : Word) (i : Instr), decode w = .ok i → i.wellFormed = true ∧ encode i = w

/-- R92: exactly the words outside the table's rows, and KEY_EVENT with key 6 or 7, are undefined; the block answers one with
UNDEFINED_COMMAND and changes nothing. -/
def Obligations.UndefinedWordsAnswered : Prop :=
  ∀ w : Word,
    ((∃ e, decode w = .error e) ↔ Stated.undefinedWord w) ∧
    ∀ (s : State) (rest : List Word), s.halted = false → s.input = w :: rest → Stated.undefinedWord w →
      step s = .next { s with input := rest, trace := s.trace ++ [.response .undefinedCommand 0x0000#16] }

/-- R100: each assembler line of the table stands for its word, and the decoder reads the command from that word. -/
def Obligations.WorkedEncodings : Prop :=
  ∀ p ∈ ([("ADVANCE_TICK", 0x0100000000000000#64, .advanceTick), ("GET_TIME", 0x0200000000000000#64, .getTime),
      ("SET_TIME 02:03", 0x0300000402030000#64, .setTime 4 0 2 0 3),
      ("SET_TIME 07:00, 3", 0x0300000307000000#64, .setTime 3 0 7 0 0),
      ("GET_ALARM", 0x0400000000000000#64, .getAlarm),
      ("SET_ALARM 07:00", 0x0500000007000000#64, .setAlarm 0 7 0 0),
      ("TOGGLE_ALARM", 0x0600000000000000#64, .toggleAlarm), ("SNOOZE 5", 0x0700000000000005#64, .snooze 5),
      ("CANCEL_ALARM", 0x0800000000000000#64, .cancelAlarm),
      ("WRITE_DIGITS 4, 1, 2, 3, 4", 0x1000000412340000#64, .writeDigits 4 1 2 3 4 0 0 0 0),
      ("REFRESH", 0x1100000000000000#64, .refresh),
      ("SET_FLASH_WINDOW 0, 3, 4", 0x1200000000040300#64, .setFlashWindow 0 3 4),
      ("TOGGLE_DOT 1", 0x1300000000000001#64, .toggleDot 1),
      ("SET_DOTS 0b0101", 0x1400000000000005#64, .setDots 5),
      ("CLEAR_DOTS 0xFF", 0x15000000000000FF#64, .clearDots 0xFF),
      ("POLL_KEYS 0b000100", 0x2000000000000004#64, .pollKeys 4),
      ("KEY_EVENT INC, PRESS", 0x2100000000000100#64, .keyEvent 0 .press),
      ("KEY_EVENT CANCEL, RELEASE", 0x2100000000000005#64, .keyEvent 5 .release)] :
      List (String × Word × Instr)),
    (readLine p.1).map (AsmLine.words 4 Time.zero) = some [p.2.1] ∧ decode p.2.1 = .ok p.2.2

/-! ## The step, reset and halt -/

/-- A step runs the decoded command: it takes the next word of the stream and executes it (R63, R80). -/
def Obligations.StepRunsDecodedCommand : Prop :=
  ∀ (s : State) (w : Word) (rest : List Word) (i : Instr),
    s.halted = false → s.input = w :: rest → decode w = .ok i →
    step s = exec i { s with input := rest }

/-- The model's choice (assumption log 2): while no word has arrived, a block that is not halted changes nothing. -/
def Obligations.WaitingBlockChangesNothing : Prop :=
  ∀ s : State, s.halted = false → s.input = [] → step s = .next s

/-- R253: a failed construction halts the block, and a halted block has no step and executes no command, whatever the command and
the rest of the state. -/
def Obligations.HaltedBlockIsStuck : Prop :=
  (∀ p : Params, p.digitCount < 1 ∨ 8 < p.digitCount → (State.resetWith p).halted = true) ∧
  ∀ s : State, s.halted = true → step s = .fault .halted ∧ ∀ i : Instr, exec i s = .fault .halted

/-- R281 and R283: construction fails exactly when the digit count is outside 1..8; the block is then halted and has emitted
nothing, and otherwise it is not halted, its registers are loaded, and it has emitted DRV_ALL_OFF alone. -/
def Obligations.ConstructionCheck : Prop :=
  ∀ p : Params,
    ((p.digitCount < 1 ∨ 8 < p.digitCount) →
      (State.resetWith p).halted = true ∧ (State.resetWith p).trace = []) ∧
    (1 ≤ p.digitCount → p.digitCount ≤ 8 →
      (State.resetWith p).halted = false ∧ Stated.ResetRegisters (State.resetWith p) ∧
        (State.resetWith p).trace = [.drvAllOff])

/-- R282: the value of every register after a successful construction, for all parameters; that these meet the invariant; and the
digit the first REFRESH drives. -/
def Obligations.ResetValues : Prop :=
  ∀ p : Params, 1 ≤ p.digitCount → p.digitCount ≤ 8 →
    let s := State.resetWith p
    Stated.ResetRegisters s ∧ s.halted = false ∧ (p.ticksPerSecond ≠ 0#16 → s.Inv) ∧
      ∃ t, exec .refresh s = .next t ∧
        t.trace.filterMap Stated.drivenDigit = [if p.digitCount = 1 then 0 else 1]

/-- The reset state meets the invariant of R39, for all legal parameters and for this hardware's own. -/
def Obligations.ResetMeetsInvariant : Prop :=
  (∀ p : Params, legalParams p → (State.resetWith p).Inv) ∧ State.reset.Inv

/-! ## Rules over every command -/

/-- R39: every step keeps the invariants of the block: legal time digits, counters below their moduli, the flash and idle bounds,
the canonical form of the buffer within `N` entries, and no ShowingTime without a time. -/
def Obligations.StepKeepsInvariant : Prop :=
  ∀ s t : State, s.Inv → step s = .next t → t.Inv

/-- R71: forward progress is unconditional. From every state of the invariant a step, and every command, ends in a next state:
none of the model's faults is reached. -/
def Obligations.RunningBlockNeverStops : Prop :=
  ∀ s : State, s.Inv → (∃ t, step s = .next t) ∧ ∀ i : Instr, ∃ t, exec i s = .next t

/-- The buffer stays within the digits of the display (R25, R60), and in the canonical form the model holds it in, under every
step, whatever the rest of the state holds. That form is no rule of the spec: it is the model's own (DESIGN CHOICE, assumption log
12). -/
def Obligations.StepKeepsBufferForm : Prop :=
  ∀ s t : State, s.buf.wf → (∀ c ∈ s.buf, c.1 < s.params.digitCount) → step s = .next t →
    t.buf.wf ∧ ∀ c ∈ t.buf, c.1 < t.params.digitCount

/-- R98: a word taken is answered by exactly one RESPONSE, the last event, with the data the rule gives; a halted block emits
nothing, having no step. -/
def Obligations.OneResponseLast : Prop :=
  ∀ (s : State) (w : Word) (rest : List Word), s.input = w :: rest →
    (s.halted = true → ∀ t, step s ≠ .next t) ∧
    ∀ t, step s = .next t →
      ∃ (events : List Event) (status : Status),
        t.trace = s.trace ++ events ++
          [.response status
            (match decode w with
              | .ok .advanceTick => t.tickCount
              | .ok .getTime => s.time.packed
              | .ok .getAlarm => s.alarmTime.packed
              | _ => 0x0000#16)] ∧
        ∀ e ∈ events, Stated.isResponse e = false

/-- R250: the status codes, which command reports which error and when, that an undefined word is answered UNDEFINED_COMMAND, and
that an error changes no state. -/
def Obligations.ErrorsAndTheirCauses : Prop :=
  (Status.ok.code = 0 ∧ Status.invalidArgument.code = 1 ∧ Status.notReady.code = 2 ∧
    Status.undefinedCommand.code = 3) ∧
  (∀ (s : State) (w : Word) (rest : List Word), s.halted = false → s.input = w :: rest →
    Stated.undefinedWord w →
      step s = .next { s with input := rest, trace := s.trace ++ [.response .undefinedCommand 0x0000#16] }) ∧
  ∀ (i : Instr) (s t : State) (status : Status) (data : BitVec 16),
    i.wellFormed = true → exec i s = .next t → t.trace.getLast? = some (.response status data) →
      (status ≠ .ok → t = { s with trace := s.trace ++ [.response status data] }) ∧
      (status = .invalidArgument ↔
        (∃ cnt d0 d1 d2 d3, i = .setTime cnt d0 d1 d2 d3 ∧ ¬ (cnt = 4#4 ∧ validTime ⟨d0, d1, d2, d3⟩ = true)) ∨
        (∃ d0 d1 d2 d3, i = .setAlarm d0 d1 d2 d3 ∧ validTime ⟨d0, d1, d2, d3⟩ = false)) ∧
      (status = .notReady ↔
        (i = .getTime ∧ s.clockValid = false) ∨ (∃ m, i = .snooze m ∧ s.ringing = false)) ∧
      status ≠ .undefinedCommand

/-- No step changes a parameter (R33) or the halt bit (R32: it is written only at reset); and the output trace only grows, which is
read from R97's "appends" (DEDUCED, assumption log 14). -/
def Obligations.ParametersAndHaltFixed : Prop :=
  ∀ s t : State, step s = .next t →
    t.params = s.params ∧ t.halted = s.halted ∧ ∃ events, t.trace = s.trace ++ events

/-- R220: no step clears `CLOCK_VALID`; and once a time is set, no step leads back to Unconfigured. -/
def Obligations.UnconfiguredLeftForGood : Prop :=
  ∀ s t : State, s.clockValid = true → step s = .next t →
    t.clockValid = true ∧ (s.mode ≠ .unconfigured → t.mode ≠ .unconfigured)

/-- R221: no key, and no other command, leads to ShowingTime while no time is set. -/
def Obligations.NoShowingTimeWithoutTime : Prop :=
  ∀ (i : Instr) (s t : State), exec i s = .next t → s.mode ≠ .showingTime → t.mode = .showingTime →
    t.clockValid = true

/-- R159: the display driver hears only of resets and REFRESH commands. -/
def Obligations.OnlyRefreshDrives : Prop :=
  ∀ (i : Instr) (s t : State), exec i s = .next t → i ≠ .refresh →
    ∃ events, t.trace = s.trace ++ events ∧ ∀ e ∈ events, Stated.isDriverEvent e = false

/-- R125: ALARM_NOTIFY(1) is emitted in exactly those ticks that roll the minute over to the alarm's time while the alarm is
enabled, and at most once in each; no other command emits it. -/
def Obligations.AlarmFiresExactly : Prop :=
  ∀ (i : Instr) (s t : State), exec i s = .next t →
    ∃ events, t.trace = s.trace ++ events ∧ events.count (.alarmNotify true) ≤ 1 ∧
      (.alarmNotify true ∈ events ↔
        i = .advanceTick ∧ Stated.nextTick s = 0 ∧ s.seconds = 59#6 ∧ s.alarmEn = true ∧
          t.time = s.alarmTime)

/-! ## BCD arithmetic -/

/-- R114: the laws of the BCD routines, for the minute field (limits 5, 9; modulus 60) and the hour field (2, 3; 24). -/
def Obligations.BcdLaws : Prop :=
  ∀ p ∈ [(minuteLimits, 60), (hourLimits, 24)], ∀ f : Field, legalField f p.1 = true →
    (∃ g w, bcdInc f p.1 = some (g, w) ∧ legalField g p.1 = true ∧
      fieldValue g = (fieldValue f + 1) % p.2 ∧ (w = true ↔ fieldValue f = p.2 - 1) ∧
      bcdDec g p.1 = some f) ∧
    (∃ g, bcdDec f p.1 = some g ∧ legalField g p.1 = true ∧
      fieldValue g = (fieldValue f + p.2 - 1) % p.2 ∧ (bcdInc g p.1).map Prod.fst = some f) ∧
    ∀ k : Nat,
      let inc := fun o : Option Field => o.bind fun g => (bcdInc g p.1).map Prod.fst
      let dec := fun o : Option Field => o.bind fun g => bcdDec g p.1
      dec^[k] (inc^[k] (some f)) = some f ∧ inc^[k] (dec^[k] (some f)) = some f

/-- R117: the routines have no value on an illegal field, and a tick that would pass them one faults. -/
def Obligations.IllegalFieldFaults : Prop :=
  (∀ (f : Field) (limits : Limits), legalField f limits = false →
    bcdInc f limits = none ∧ bcdDec f limits = none) ∧
  ∀ s : State, s.halted = false → s.params.ticksPerSecond ≠ 0#16 → Stated.nextTick s = 0 →
    s.seconds = 59#6 → legalField s.time.minutes minuteLimits = false →
    exec .advanceTick s = .fault .illegalBcdField

/-- R115: one minute later, modulo 24 hours. -/
def Obligations.TimeIncrement : Prop :=
  ∀ t : Time, validTime t = true →
    ∃ u, timeInc1 t = some u ∧ validTime u = true ∧ u.minuteOfDay = (t.minuteOfDay + 1) % 1440

/-- R116: the validation predicate, digit by digit, and that it says both fields are legal. -/
def Obligations.ValidationPredicate : Prop :=
  ∀ t : Time,
    (validTime t = true ↔
      t.hourTens.toNat ≤ 2 ∧ t.hourUnits.toNat ≤ 9 ∧ (t.hourTens = 2#4 → t.hourUnits.toNat ≤ 3) ∧
        t.minuteTens.toNat ≤ 5 ∧ t.minuteUnits.toNat ≤ 9) ∧
    (validTime t = true ↔
      legalField t.hours hourLimits = true ∧ legalField t.minutes minuteLimits = true)

/-! ## The tick -/

/-- R120 and R124, a tick that rolls no minute over: the tick counter steps modulo `TPS`, the seconds step when it wraps, the
separator dot flips on a half second if that digit exists, the response carries the new count, and nothing else changes. -/
def Obligations.TickWithinMinute : Prop :=
  ∀ s : State, s.halted = false → s.params.ticksPerSecond ≠ 0#16 →
    ¬ (Stated.nextTick s = 0 ∧ s.seconds = 59#6) →
    ∃ t, exec .advanceTick s = .next t ∧
      { t with buf := s.buf } =
        { s with
          tickCount := BitVec.ofNat 16 (Stated.nextTick s)
          seconds := if Stated.nextTick s = 0 then s.seconds + 1#6 else s.seconds
          trace := s.trace ++ [.response .ok (BitVec.ofNat 16 (Stated.nextTick s))] } ∧
      ∀ i, t.bufRead i =
        if i = s.params.separatorDigit.toNat ∧ i < s.params.digitCount ∧
            (Stated.nextTick s = 0 ∨ Stated.nextTick s = s.params.ticksPerSecond.toNat / 2)
        then s.bufRead i ^^^ 0x80#8 else s.bufRead i

/-- R120 to R124, the tick that rolls the minute over: the time is one minute later, the alarm is compared with the new time and
rings, the display follows in ShowingTime, then the separator dot flips; and nothing else changes. -/
def Obligations.TickRollsMinuteOver : Prop :=
  ∀ s : State, s.halted = false → s.params.ticksPerSecond ≠ 0#16 →
    Stated.nextTick s = 0 → s.seconds = 59#6 → validTime s.time = true →
    ∃ t u, exec .advanceTick s = .next t ∧
      validTime u = true ∧ u.minuteOfDay = (s.time.minuteOfDay + 1) % 1440 ∧
      { t with buf := s.buf } =
        { s with
          tickCount := 0#16
          seconds := 0#6
          time := u
          ringing := s.ringing || (s.alarmEn && (u = s.alarmTime : Bool))
          trace := s.trace ++ (if s.alarmEn = true ∧ u = s.alarmTime then [.alarmNotify true] else []) ++
            [.response .ok 0x0000#16] } ∧
      ∀ i, t.bufRead i =
        (if s.mode = .showingTime then Stated.entryAfterShow s u i else s.bufRead i) ^^^
          (if i = s.params.separatorDigit.toNat ∧ i < s.params.digitCount then 0x80#8 else 0x00#8)

/-- The model's choice (assumption log 10): a block without a legal modulus stops by name, where R118 says there is none. -/
def Obligations.ZeroModulusFaults : Prop :=
  ∀ s : State, s.halted = false →
    (s.params.ticksPerSecond = 0#16 → exec .advanceTick s = .fault .illegalParameter) ∧
    ((s.params.digitCount < 1 ∨ 8 < s.params.digitCount) → exec .refresh s = .fault .illegalParameter)

/-! ## The clock commands -/

/-- R130 and R132: the getters answer the packed time, GET_TIME with NOT_READY until a time is set, and change nothing. -/
def Obligations.GettersAnswer : Prop :=
  ∀ s : State, s.halted = false →
    exec .getTime s =
      .next { s with trace := s.trace ++ [.response (if s.clockValid then .ok else .notReady) s.time.packed] } ∧
    exec .getAlarm s = .next { s with trace := s.trace ++ [.response .ok s.alarmTime.packed] }

/-- R61 and R20: a packed time holds hour tens in bits 15:12, hour units in 11:8, minute tens in 7:4, minute units in 3:0. -/
def Obligations.TimePacking : Prop :=
  ∀ t : Time, t.packed.toNat =
    t.hourTens.toNat * 4096 + t.hourUnits.toNat * 256 + t.minuteTens.toNat * 16 + t.minuteUnits.toNat

/-- R131: SET_TIME, accepted and refused. -/
def Obligations.SetTimeResult : Prop :=
  ∀ (s : State) (cnt : BitVec 4) (d0 d1 d2 d3 : Digit), s.halted = false →
    exec (.setTime cnt d0 d1 d2 d3) s =
      if cnt = 4#4 ∧ d0.toNat ≤ 2 ∧ d1.toNat ≤ 9 ∧ (d0 = 2#4 → d1.toNat ≤ 3) ∧ d2.toNat ≤ 5 ∧ d3.toNat ≤ 9 then
        .next { s with
          time := ⟨d0, d1, d2, d3⟩, seconds := 0#6, clockValid := true
          trace := s.trace ++ [.response .ok 0x0000#16] }
      else .next { s with trace := s.trace ++ [.response .invalidArgument 0x0000#16] }

/-- R133: SET_ALARM, accepted and refused; the enabled and ringing flags are not touched. -/
def Obligations.SetAlarmResult : Prop :=
  ∀ (s : State) (d0 d1 d2 d3 : Digit), s.halted = false →
    exec (.setAlarm d0 d1 d2 d3) s =
      if d0.toNat ≤ 2 ∧ d1.toNat ≤ 9 ∧ (d0 = 2#4 → d1.toNat ≤ 3) ∧ d2.toNat ≤ 5 ∧ d3.toNat ≤ 9 then
        .next { s with
          alarmTime := ⟨d0, d1, d2, d3⟩
          trace := s.trace ++ [.response .ok 0x0000#16] }
      else .next { s with trace := s.trace ++ [.response .invalidArgument 0x0000#16] }

/-- R134: TOGGLE_ALARM flips `ALARM_EN` and nothing else, ringing or not. -/
def Obligations.ToggleAlarmResult : Prop :=
  ∀ s : State, s.halted = false →
    exec .toggleAlarm s =
      .next { s with alarmEn := !s.alarmEn, trace := s.trace ++ [.response .ok 0x0000#16] }

/-- R135: SNOOZE while ringing moves the alarm on by the minutes, modulo 24 hours, and stops the ring; otherwise it answers
NOT_READY and changes nothing. -/
def Obligations.SnoozeResult : Prop :=
  ∀ (s : State) (minutes : BitVec 8), s.halted = false →
    (s.ringing = false →
      exec (.snooze minutes) s = .next { s with trace := s.trace ++ [.response .notReady 0x0000#16] }) ∧
    (s.ringing = true → validTime s.alarmTime = true →
      ∃ u, validTime u = true ∧ u.minuteOfDay = (s.alarmTime.minuteOfDay + minutes.toNat) % 1440 ∧
        exec (.snooze minutes) s =
          .next { s with
            alarmTime := u, ringing := false
            trace := s.trace ++ [.alarmNotify false, .response .ok 0x0000#16] })

/-- R136: CANCEL_ALARM stops a ring, with a notification, and otherwise changes nothing. -/
def Obligations.CancelAlarmResult : Prop :=
  ∀ s : State, s.halted = false →
    exec .cancelAlarm s =
      .next { s with
        ringing := false
        trace := s.trace ++ (if s.ringing then [.alarmNotify false] else []) ++ [.response .ok 0x0000#16] }

/-! ## The display commands -/

/-- R151: WRITE_DIGITS replaces the segments of the entries below the count and `N`, each dot kept; a value above 9 leaves that
entry's segments open and nothing else; no other entry and no other register changes. -/
def Obligations.WriteDigitsResult : Prop :=
  ∀ (s : State) (cnt : BitVec 4) (v0 v1 v2 v3 v4 v5 v6 v7 : Digit), s.halted = false →
    ∃ t, exec (.writeDigits cnt v0 v1 v2 v3 v4 v5 v6 v7) s = .next t ∧
      { t with buf := s.buf, draws := s.draws } =
        { s with trace := s.trace ++ [.response .ok 0x0000#16] } ∧
      (∀ i v, [v0, v1, v2, v3, v4, v5, v6, v7][i]? = some v → i < cnt.toNat → i < s.params.digitCount →
        t.bufRead i &&& 0x80#8 = s.bufRead i &&& 0x80#8 ∧
        (v.toNat ≤ 9 → t.bufRead i = Stated.entryShowing s (s.bufRead i) v)) ∧
      ∀ i, cnt.toNat ≤ i ∨ s.params.digitCount ≤ i ∨ 8 ≤ i → t.bufRead i = s.bufRead i

/-- R152 and R153: REFRESH advances the scan, steps the flash counter at digit 0, and drives one digit, its segments suppressed in
the off half of the flash cycle and its dot kept; nothing else changes. -/
def Obligations.RefreshResult : Prop :=
  ∀ s : State, s.halted = false → 1 ≤ s.params.digitCount → s.params.digitCount ≤ 8 →
    let a := (s.activeDigit.toNat + 1) % s.params.digitCount
    let count := if s.flashFactor ≠ 0#16 ∧ a = 0
      then (s.flashCount.toNat + 1) % s.flashFactor.toNat else s.flashCount.toNat
    let off := s.flashFactor ≠ 0#16 ∧ s.flashFrom.toNat ≤ a ∧ a ≤ s.flashTo.toNat ∧
      s.flashFactor.toNat / 2 < count
    exec .refresh s =
      .next { s with
        activeDigit := BitVec.ofNat 3 a
        flashCount := BitVec.ofNat 16 count
        trace := s.trace ++
          [.drvAllOff, .drvSegments (if off then s.bufRead a &&& 0x80#8 else s.bufRead a),
            .drvDigit (BitVec.ofNat 8 a), .response .ok 0x0000#16] }

/-- R153: a flash factor of 1 or 2 suppresses nothing, nor is a digit outside the window ever suppressed, in every state of the
invariant. -/
def Obligations.FlashNeverOff : Prop :=
  ∀ (s : State) (a : Nat), s.Inv →
    s.flashFactor.toNat ≤ 2 ∨ a < s.flashFrom.toNat ∨ s.flashTo.toNat < a ∨
      s.flashTo.toNat < s.flashFrom.toNat →
    flashOff s a = false

/-- R154: consecutive REFRESH commands drive the digits in ascending cyclic order, one each. -/
def Obligations.ScanVisitsDigitsInOrder : Prop :=
  ∀ (k : Nat) (s : State) (rest : List Word), s.Inv →
    s.input = List.replicate k (encode .refresh) ++ rest →
    ∃ t, Host.Core.run Sys2Proof.core k s = .next t ∧ t.input = rest ∧
      (t.trace.drop s.trace.length).filterMap Stated.drivenDigit =
        (List.range k).map fun j => (s.activeDigit.toNat + 1 + j) % s.params.digitCount

/-- R155: SET_FLASH_WINDOW stores the window modulo `N + 1` and the factor, and clears the counter for every factor. -/
def Obligations.SetFlashWindowResult : Prop :=
  ∀ (s : State) (f t : BitVec 8) (factor : BitVec 16), s.halted = false → s.params.digitCount ≤ 8 →
    ∃ f' t' : BitVec 4,
      f'.toNat = f.toNat % (s.params.digitCount + 1) ∧ t'.toNat = t.toNat % (s.params.digitCount + 1) ∧
      exec (.setFlashWindow f t factor) s =
        .next { s with
          flashFrom := f', flashTo := t', flashFactor := factor, flashCount := 0#16
          trace := s.trace ++ [.response .ok 0x0000#16] }

/-- R156: TOGGLE_DOT flips bit 7 of one entry below `N`, and an index at or above `N` changes nothing. -/
def Obligations.ToggleDotResult : Prop :=
  ∀ (s : State) (index : BitVec 8), s.halted = false →
    ∃ t, exec (.toggleDot index) s = .next t ∧
      { t with buf := s.buf } = { s with trace := s.trace ++ [.response .ok 0x0000#16] } ∧
      ∀ i, t.bufRead i =
        if i = index.toNat ∧ i < s.params.digitCount then s.bufRead i ^^^ 0x80#8 else s.bufRead i

/-- R157: SET_DOTS sets bit 7 of the entries the mask selects below `N`, and no segment bit. -/
def Obligations.SetDotsResult : Prop :=
  ∀ (s : State) (mask : BitVec 8), s.halted = false →
    ∃ t, exec (.setDots mask) s = .next t ∧
      { t with buf := s.buf } = { s with trace := s.trace ++ [.response .ok 0x0000#16] } ∧
      ∀ i, t.bufRead i =
        if i < s.params.digitCount ∧ mask.getLsbD i = true then s.bufRead i ||| 0x80#8 else s.bufRead i

/-- R158: CLEAR_DOTS clears bit 7 of the entries the mask selects below `N`, and no segment bit. -/
def Obligations.ClearDotsResult : Prop :=
  ∀ (s : State) (mask : BitVec 8), s.halted = false →
    ∃ t, exec (.clearDots mask) s = .next t ∧
      { t with buf := s.buf } = { s with trace := s.trace ++ [.response .ok 0x0000#16] } ∧
      ∀ i, t.bufRead i =
        if i < s.params.digitCount ∧ mask.getLsbD i = true then s.bufRead i &&& 0x7F#8 else s.bufRead i

/-! ## Keys and modes -/

/-- R190 and R191: a poll dispatches one event for each key whose level changed, in ascending key number, and remembers the
levels; with no change it runs the idle timer. -/
def Obligations.PollDispatchesEdges : Prop :=
  ∀ (s : State) (levels : BitVec 6), s.halted = false →
    exec (.pollKeys levels) s =
      finish
        (((Stated.pollEvents s.keyPrev levels).foldl
            (fun o e => o.bind fun s' => dispatch s' e.1 e.2)
            (some { s with keyPrev := levels })).bind fun s' =>
          if levels = s.keyPrev then idleTick s' else some s')

/-- R190 and R192: a poll that changes one key does to the block what the KEY_EVENT of that edge does, and remembers the
levels. -/
def Obligations.SingleEdgePollIsKeyEvent : Prop :=
  ∀ (s : State) (levels : BitVec 6) (k : Fin 6),
    (∀ j : Fin 6, levels.getLsbD j = s.keyPrev.getLsbD j ↔ j ≠ k) →
    exec (.pollKeys levels) s =
      exec (.keyEvent (BitVec.ofNat 3 k) (if levels.getLsbD k then .press else .release))
        { s with keyPrev := levels }

/-- R222: an idle poll outside an edit state, or with the timeout disabled, changes nothing; below the limit it counts; at the
limit an hours variant moves to its minutes variant and a minutes variant is left, as Cancel does. -/
def Obligations.IdlePollTimesOut : Prop :=
  ∀ s : State, s.halted = false → validTime s.time = true →
    let idle := s.mode.isEdit = true ∧ s.params.idleLimit ≠ 0#16
    let answered := { s with trace := s.trace ++ [.response .ok 0x0000#16] }
    (¬ idle → exec (.pollKeys s.keyPrev) s = .next answered) ∧
    (idle → s.idleCount + 1#16 ≠ s.params.idleLimit →
      exec (.pollKeys s.keyPrev) s = .next { answered with idleCount := s.idleCount + 1#16 }) ∧
    (idle → s.idleCount + 1#16 = s.params.idleLimit →
      ∃ t, exec (.pollKeys s.keyPrev) s = .next t ∧
        (s.mode = .editHoursOfTime →
          t = { Stated.flashing answered 2 3 with idleCount := 0#16, mode := .editMinutesOfTime }) ∧
        (s.mode = .editHoursOfAlarm →
          t = { Stated.flashing answered 2 3 with idleCount := 0#16, mode := .editMinutesOfAlarm }) ∧
        (s.mode = .editMinutesOfTime ∨ s.mode = .editMinutesOfAlarm →
          Stated.LeavesEdit { answered with idleCount := 0#16 } t))

/-- R193 and R194: a release runs no handler in any mode; it restarts the idle timer in an edit state and changes nothing else. -/
def Obligations.ReleaseRunsNoHandler : Prop :=
  ∀ (s : State) (k : Key), s.halted = false →
    exec (.keyEvent (BitVec.ofNat 3 k.number) .release) s = .next (Stated.keyed s)

/-- R204, R205 and R210: the cells with no transition change nothing but the idle timer of an edit state. -/
def Obligations.NoTransitionCells : Prop :=
  ∀ (s : State) (k : Key), s.halted = false →
    (s.mode = .unconfigured ∧ k ∈ [.increment, .decrement, .accept, .cancel]) ∨
      (s.mode = .showingTime ∧ k ∈ [.increment, .decrement]) ∨
      (s.mode.isEdit = true ∧ k ∈ [.startEditTime, .startEditAlarm]) →
    exec (.keyEvent (BitVec.ofNat 3 k.number) .press) s = .next (Stated.keyed s)

/-- R200 and R202: Increment and Decrement in a minutes variant step the minutes of the edit buffer modulo 60, with no carry into
its hours, and show the edit buffer. -/
def Obligations.EditMinutesKeys : Prop :=
  ∀ (s : State) (k : Key), s.halted = false → validTime s.edit = true →
    s.mode = .editMinutesOfTime ∨ s.mode = .editMinutesOfAlarm → k = .increment ∨ k = .decrement →
    ∃ t u, exec (.keyEvent (BitVec.ofNat 3 k.number) .press) s = .next t ∧
      validTime u = true ∧ u.hours = s.edit.hours ∧
      fieldValue u.minutes = (fieldValue s.edit.minutes + if k = .increment then 1 else 59) % 60 ∧
      Stated.ShowsFrom { Stated.keyed s with edit := u } t u

/-- R201 and R203: Increment and Decrement in an hours variant step the hours of the edit buffer modulo 24 and show it. -/
def Obligations.EditHoursKeys : Prop :=
  ∀ (s : State) (k : Key), s.halted = false → validTime s.edit = true →
    s.mode = .editHoursOfTime ∨ s.mode = .editHoursOfAlarm → k = .increment ∨ k = .decrement →
    ∃ t u, exec (.keyEvent (BitVec.ofNat 3 k.number) .press) s = .next t ∧
      validTime u = true ∧ u.minutes = s.edit.minutes ∧
      fieldValue u.hours = (fieldValue s.edit.hours + if k = .increment then 1 else 23) % 24 ∧
      Stated.ShowsFrom { Stated.keyed s with edit := u } t u

/-- R208 and R209: the StartEdit keys seed the edit buffer, by the mode they are pressed in, show it, and flash the minutes. -/
def Obligations.StartEditKeys : Prop :=
  ∀ (s : State) (alarm : Bool), s.halted = false →
    s.mode = .unconfigured ∨ s.mode = .showingTime → validTime s.time = true → validTime s.alarmTime = true →
    let seed := if s.mode = .unconfigured then Time.zero else if alarm then s.alarmTime else s.time
    ∃ t, exec (.keyEvent (if alarm then 3#3 else 2#3) .press) s = .next t ∧
      Stated.ShowsFrom
        { Stated.flashing (Stated.keyed s) 2 3 with
          edit := seed, mode := if alarm then .editMinutesOfAlarm else .editMinutesOfTime } t seed

/-- R212, R213, R214 and R217: Accept in a minutes variant moves to the hours variant and flashes the hours, Cancel in an hours
variant moves back and flashes the minutes; the edit buffer is kept and nothing else changes. -/
def Obligations.VariantMoves : Prop :=
  ∀ s : State, s.halted = false →
    (s.mode = .editMinutesOfTime → exec (.keyEvent 4#3 .press) s =
      .next { Stated.flashing (Stated.keyed s) 0 1 with mode := .editHoursOfTime }) ∧
    (s.mode = .editHoursOfTime → exec (.keyEvent 5#3 .press) s =
      .next { Stated.flashing (Stated.keyed s) 2 3 with mode := .editMinutesOfTime }) ∧
    (s.mode = .editMinutesOfAlarm → exec (.keyEvent 4#3 .press) s =
      .next { Stated.flashing (Stated.keyed s) 0 1 with mode := .editHoursOfAlarm }) ∧
    (s.mode = .editHoursOfAlarm → exec (.keyEvent 5#3 .press) s =
      .next { Stated.flashing (Stated.keyed s) 2 3 with mode := .editMinutesOfAlarm })

/-- R211: Cancel in a minutes variant discards the edit: nothing is committed, and the edit is left for ShowingTime if a time was
set, else for Unconfigured. -/
def Obligations.CancelDiscardsEdit : Prop :=
  ∀ s : State, s.halted = false → s.mode = .editMinutesOfTime ∨ s.mode = .editMinutesOfAlarm →
    validTime s.time = true →
    ∃ t, exec (.keyEvent 5#3 .press) s = .next t ∧ Stated.LeavesEdit (Stated.keyed s) t

/-- R215 and R216: Accept in EditHoursOfTime commits the edit buffer to the time; where the commit fails, nothing changes but the
idle timer. -/
def Obligations.CommitTimeResult : Prop :=
  ∀ s : State, s.halted = false → s.mode = .editHoursOfTime →
    (validTime s.edit = true →
      ∃ t, exec (.keyEvent 4#3 .press) s = .next t ∧
        Stated.LeavesEdit { Stated.keyed s with time := s.edit, seconds := 0#6, clockValid := true } t) ∧
    (validTime s.edit = false → exec (.keyEvent 4#3 .press) s = .next (Stated.keyed s))

/-- R219 and R216: Accept in EditHoursOfAlarm commits the edit buffer to the alarm's time and enables the alarm; where the commit
fails, nothing changes but the idle timer. -/
def Obligations.CommitAlarmResult : Prop :=
  ∀ s : State, s.halted = false → s.mode = .editHoursOfAlarm → validTime s.time = true →
    (validTime s.edit = true →
      ∃ t, exec (.keyEvent 4#3 .press) s = .next t ∧
        Stated.LeavesEdit { Stated.keyed s with alarmTime := s.edit, alarmEn := true } t) ∧
    (validTime s.edit = false → exec (.keyEvent 4#3 .press) s = .next (Stated.keyed s))

/-- R206: Accept in ShowingTime snoozes a ring by `SNOOZE_MINUTES`, and otherwise enables the alarm. That it enables, and does not
toggle, is the spec's own reading of the source's cell (R206: "Accept enables and Cancel disables", decision D37). -/
def Obligations.AcceptWhileShowing : Prop :=
  ∀ s : State, s.halted = false → s.mode = .showingTime →
    (s.ringing = false → exec (.keyEvent 4#3 .press) s =
      .next { s with alarmEn := true, trace := s.trace ++ [.response .ok 0x0000#16] }) ∧
    (s.ringing = true → validTime s.alarmTime = true →
      ∃ u, validTime u = true ∧
        u.minuteOfDay = (s.alarmTime.minuteOfDay + s.params.snoozeMinutes.toNat) % 1440 ∧
        exec (.keyEvent 4#3 .press) s =
          .next { s with
            alarmTime := u, ringing := false
            trace := s.trace ++ [.alarmNotify false, .response .ok 0x0000#16] })

/-- R207: Cancel in ShowingTime stops a ring, and otherwise disables the alarm. That it disables, and does not toggle, is the
spec's own reading of the source's cell (R206: "Accept enables and Cancel disables", decision D37). -/
def Obligations.CancelWhileShowing : Prop :=
  ∀ s : State, s.halted = false → s.mode = .showingTime →
    exec (.keyEvent 5#3 .press) s =
      if s.ringing then
        .next { s with ringing := false, trace := s.trace ++ [.alarmNotify false, .response .ok 0x0000#16] }
      else .next { s with alarmEn := false, trace := s.trace ++ [.response .ok 0x0000#16] }

/-- R192 and R92: a KEY_EVENT term with key 6 or 7, which no word spells, is answered as the undefined word is. -/
def Obligations.SeventhKeyIsUndefined : Prop :=
  ∀ (s : State) (key : BitVec 3) (edge : Edge), s.halted = false → 6 ≤ key.toNat →
    exec (.keyEvent key edge) s =
      .next { s with trace := s.trace ++ [.response .undefinedCommand 0x0000#16] }
end

