-- ==== Sys2Proof/Laws/State.lean ====
section
/-!
SUPPORT. One lemma per field per update of the state, so that no proof unfolds a record update.
-/

namespace Sys2Proof.Machine

variable (s : State)

/-! ### emit -/

@[simp] theorem emit_params (e : Event) : (s.emit e).params = s.params := rfl
@[simp] theorem emit_input (e : Event) : (s.emit e).input = s.input := rfl
@[simp] theorem emit_trace (e : Event) : (s.emit e).trace = s.trace ++ [e] := rfl
@[simp] theorem emit_draws (e : Event) : (s.emit e).draws = s.draws := rfl
@[simp] theorem emit_time (e : Event) : (s.emit e).time = s.time := rfl
@[simp] theorem emit_tickCount (e : Event) : (s.emit e).tickCount = s.tickCount := rfl
@[simp] theorem emit_seconds (e : Event) : (s.emit e).seconds = s.seconds := rfl
@[simp] theorem emit_clockValid (e : Event) : (s.emit e).clockValid = s.clockValid := rfl
@[simp] theorem emit_alarmTime (e : Event) : (s.emit e).alarmTime = s.alarmTime := rfl
@[simp] theorem emit_alarmEn (e : Event) : (s.emit e).alarmEn = s.alarmEn := rfl
@[simp] theorem emit_ringing (e : Event) : (s.emit e).ringing = s.ringing := rfl
@[simp] theorem emit_buf (e : Event) : (s.emit e).buf = s.buf := rfl
@[simp] theorem emit_activeDigit (e : Event) : (s.emit e).activeDigit = s.activeDigit := rfl
@[simp] theorem emit_flashFrom (e : Event) : (s.emit e).flashFrom = s.flashFrom := rfl
@[simp] theorem emit_flashTo (e : Event) : (s.emit e).flashTo = s.flashTo := rfl
@[simp] theorem emit_flashFactor (e : Event) : (s.emit e).flashFactor = s.flashFactor := rfl
@[simp] theorem emit_flashCount (e : Event) : (s.emit e).flashCount = s.flashCount := rfl
@[simp] theorem emit_keyPrev (e : Event) : (s.emit e).keyPrev = s.keyPrev := rfl
@[simp] theorem emit_mode (e : Event) : (s.emit e).mode = s.mode := rfl
@[simp] theorem emit_edit (e : Event) : (s.emit e).edit = s.edit := rfl
@[simp] theorem emit_idleCount (e : Event) : (s.emit e).idleCount = s.idleCount := rfl
@[simp] theorem emit_halted (e : Event) : (s.emit e).halted = s.halted := rfl

/-! ### respond -/

@[simp] theorem respond_params (st : Status) (d : BitVec 16) : (s.respond st d).params = s.params := rfl
@[simp] theorem respond_input (st : Status) (d : BitVec 16) : (s.respond st d).input = s.input := rfl
@[simp] theorem respond_trace (st : Status) (d : BitVec 16) : (s.respond st d).trace = s.trace ++ [.response st d] := rfl
@[simp] theorem respond_draws (st : Status) (d : BitVec 16) : (s.respond st d).draws = s.draws := rfl
@[simp] theorem respond_time (st : Status) (d : BitVec 16) : (s.respond st d).time = s.time := rfl
@[simp] theorem respond_tickCount (st : Status) (d : BitVec 16) : (s.respond st d).tickCount = s.tickCount := rfl
@[simp] theorem respond_seconds (st : Status) (d : BitVec 16) : (s.respond st d).seconds = s.seconds := rfl
@[simp] theorem respond_clockValid (st : Status) (d : BitVec 16) : (s.respond st d).clockValid = s.clockValid := rfl
@[simp] theorem respond_alarmTime (st : Status) (d : BitVec 16) : (s.respond st d).alarmTime = s.alarmTime := rfl
@[simp] theorem respond_alarmEn (st : Status) (d : BitVec 16) : (s.respond st d).alarmEn = s.alarmEn := rfl
@[simp] theorem respond_ringing (st : Status) (d : BitVec 16) : (s.respond st d).ringing = s.ringing := rfl
@[simp] theorem respond_buf (st : Status) (d : BitVec 16) : (s.respond st d).buf = s.buf := rfl
@[simp] theorem respond_activeDigit (st : Status) (d : BitVec 16) : (s.respond st d).activeDigit = s.activeDigit := rfl
@[simp] theorem respond_flashFrom (st : Status) (d : BitVec 16) : (s.respond st d).flashFrom = s.flashFrom := rfl
@[simp] theorem respond_flashTo (st : Status) (d : BitVec 16) : (s.respond st d).flashTo = s.flashTo := rfl
@[simp] theorem respond_flashFactor (st : Status) (d : BitVec 16) : (s.respond st d).flashFactor = s.flashFactor := rfl
@[simp] theorem respond_flashCount (st : Status) (d : BitVec 16) : (s.respond st d).flashCount = s.flashCount := rfl
@[simp] theorem respond_keyPrev (st : Status) (d : BitVec 16) : (s.respond st d).keyPrev = s.keyPrev := rfl
@[simp] theorem respond_mode (st : Status) (d : BitVec 16) : (s.respond st d).mode = s.mode := rfl
@[simp] theorem respond_edit (st : Status) (d : BitVec 16) : (s.respond st d).edit = s.edit := rfl
@[simp] theorem respond_idleCount (st : Status) (d : BitVec 16) : (s.respond st d).idleCount = s.idleCount := rfl
@[simp] theorem respond_halted (st : Status) (d : BitVec 16) : (s.respond st d).halted = s.halted := rfl

/-! ### setClockValid -/

@[simp] theorem setClockValid_params : (s.setClockValid).params = s.params := rfl
@[simp] theorem setClockValid_input : (s.setClockValid).input = s.input := rfl
@[simp] theorem setClockValid_trace : (s.setClockValid).trace = s.trace := rfl
@[simp] theorem setClockValid_draws : (s.setClockValid).draws = s.draws := rfl
@[simp] theorem setClockValid_time : (s.setClockValid).time = s.time := rfl
@[simp] theorem setClockValid_tickCount : (s.setClockValid).tickCount = s.tickCount := rfl
@[simp] theorem setClockValid_seconds : (s.setClockValid).seconds = s.seconds := rfl
@[simp] theorem setClockValid_clockValid : (s.setClockValid).clockValid = true := rfl
@[simp] theorem setClockValid_alarmTime : (s.setClockValid).alarmTime = s.alarmTime := rfl
@[simp] theorem setClockValid_alarmEn : (s.setClockValid).alarmEn = s.alarmEn := rfl
@[simp] theorem setClockValid_ringing : (s.setClockValid).ringing = s.ringing := rfl
@[simp] theorem setClockValid_buf : (s.setClockValid).buf = s.buf := rfl
@[simp] theorem setClockValid_activeDigit : (s.setClockValid).activeDigit = s.activeDigit := rfl
@[simp] theorem setClockValid_flashFrom : (s.setClockValid).flashFrom = s.flashFrom := rfl
@[simp] theorem setClockValid_flashTo : (s.setClockValid).flashTo = s.flashTo := rfl
@[simp] theorem setClockValid_flashFactor : (s.setClockValid).flashFactor = s.flashFactor := rfl
@[simp] theorem setClockValid_flashCount : (s.setClockValid).flashCount = s.flashCount := rfl
@[simp] theorem setClockValid_keyPrev : (s.setClockValid).keyPrev = s.keyPrev := rfl
@[simp] theorem setClockValid_mode : (s.setClockValid).mode = s.mode := rfl
@[simp] theorem setClockValid_edit : (s.setClockValid).edit = s.edit := rfl
@[simp] theorem setClockValid_idleCount : (s.setClockValid).idleCount = s.idleCount := rfl
@[simp] theorem setClockValid_halted : (s.setClockValid).halted = s.halted := rfl

/-! ### toggleAlarmEn -/

@[simp] theorem toggleAlarmEn_params : (s.toggleAlarmEn).params = s.params := rfl
@[simp] theorem toggleAlarmEn_input : (s.toggleAlarmEn).input = s.input := rfl
@[simp] theorem toggleAlarmEn_trace : (s.toggleAlarmEn).trace = s.trace := rfl
@[simp] theorem toggleAlarmEn_draws : (s.toggleAlarmEn).draws = s.draws := rfl
@[simp] theorem toggleAlarmEn_time : (s.toggleAlarmEn).time = s.time := rfl
@[simp] theorem toggleAlarmEn_tickCount : (s.toggleAlarmEn).tickCount = s.tickCount := rfl
@[simp] theorem toggleAlarmEn_seconds : (s.toggleAlarmEn).seconds = s.seconds := rfl
@[simp] theorem toggleAlarmEn_clockValid : (s.toggleAlarmEn).clockValid = s.clockValid := rfl
@[simp] theorem toggleAlarmEn_alarmTime : (s.toggleAlarmEn).alarmTime = s.alarmTime := rfl
@[simp] theorem toggleAlarmEn_alarmEn : (s.toggleAlarmEn).alarmEn = !s.alarmEn := rfl
@[simp] theorem toggleAlarmEn_ringing : (s.toggleAlarmEn).ringing = s.ringing := rfl
@[simp] theorem toggleAlarmEn_buf : (s.toggleAlarmEn).buf = s.buf := rfl
@[simp] theorem toggleAlarmEn_activeDigit : (s.toggleAlarmEn).activeDigit = s.activeDigit := rfl
@[simp] theorem toggleAlarmEn_flashFrom : (s.toggleAlarmEn).flashFrom = s.flashFrom := rfl
@[simp] theorem toggleAlarmEn_flashTo : (s.toggleAlarmEn).flashTo = s.flashTo := rfl
@[simp] theorem toggleAlarmEn_flashFactor : (s.toggleAlarmEn).flashFactor = s.flashFactor := rfl
@[simp] theorem toggleAlarmEn_flashCount : (s.toggleAlarmEn).flashCount = s.flashCount := rfl
@[simp] theorem toggleAlarmEn_keyPrev : (s.toggleAlarmEn).keyPrev = s.keyPrev := rfl
@[simp] theorem toggleAlarmEn_mode : (s.toggleAlarmEn).mode = s.mode := rfl
@[simp] theorem toggleAlarmEn_edit : (s.toggleAlarmEn).edit = s.edit := rfl
@[simp] theorem toggleAlarmEn_idleCount : (s.toggleAlarmEn).idleCount = s.idleCount := rfl
@[simp] theorem toggleAlarmEn_halted : (s.toggleAlarmEn).halted = s.halted := rfl

/-! ### enableAlarm -/

@[simp] theorem enableAlarm_params : (s.enableAlarm).params = s.params := rfl
@[simp] theorem enableAlarm_input : (s.enableAlarm).input = s.input := rfl
@[simp] theorem enableAlarm_trace : (s.enableAlarm).trace = s.trace := rfl
@[simp] theorem enableAlarm_draws : (s.enableAlarm).draws = s.draws := rfl
@[simp] theorem enableAlarm_time : (s.enableAlarm).time = s.time := rfl
@[simp] theorem enableAlarm_tickCount : (s.enableAlarm).tickCount = s.tickCount := rfl
@[simp] theorem enableAlarm_seconds : (s.enableAlarm).seconds = s.seconds := rfl
@[simp] theorem enableAlarm_clockValid : (s.enableAlarm).clockValid = s.clockValid := rfl
@[simp] theorem enableAlarm_alarmTime : (s.enableAlarm).alarmTime = s.alarmTime := rfl
@[simp] theorem enableAlarm_alarmEn : (s.enableAlarm).alarmEn = true := rfl
@[simp] theorem enableAlarm_ringing : (s.enableAlarm).ringing = s.ringing := rfl
@[simp] theorem enableAlarm_buf : (s.enableAlarm).buf = s.buf := rfl
@[simp] theorem enableAlarm_activeDigit : (s.enableAlarm).activeDigit = s.activeDigit := rfl
@[simp] theorem enableAlarm_flashFrom : (s.enableAlarm).flashFrom = s.flashFrom := rfl
@[simp] theorem enableAlarm_flashTo : (s.enableAlarm).flashTo = s.flashTo := rfl
@[simp] theorem enableAlarm_flashFactor : (s.enableAlarm).flashFactor = s.flashFactor := rfl
@[simp] theorem enableAlarm_flashCount : (s.enableAlarm).flashCount = s.flashCount := rfl
@[simp] theorem enableAlarm_keyPrev : (s.enableAlarm).keyPrev = s.keyPrev := rfl
@[simp] theorem enableAlarm_mode : (s.enableAlarm).mode = s.mode := rfl
@[simp] theorem enableAlarm_edit : (s.enableAlarm).edit = s.edit := rfl
@[simp] theorem enableAlarm_idleCount : (s.enableAlarm).idleCount = s.idleCount := rfl
@[simp] theorem enableAlarm_halted : (s.enableAlarm).halted = s.halted := rfl

/-! ### startRing -/

@[simp] theorem startRing_params : (s.startRing).params = s.params := rfl
@[simp] theorem startRing_input : (s.startRing).input = s.input := rfl
@[simp] theorem startRing_trace : (s.startRing).trace = s.trace ++ [.alarmNotify true] := rfl
@[simp] theorem startRing_draws : (s.startRing).draws = s.draws := rfl
@[simp] theorem startRing_time : (s.startRing).time = s.time := rfl
@[simp] theorem startRing_tickCount : (s.startRing).tickCount = s.tickCount := rfl
@[simp] theorem startRing_seconds : (s.startRing).seconds = s.seconds := rfl
@[simp] theorem startRing_clockValid : (s.startRing).clockValid = s.clockValid := rfl
@[simp] theorem startRing_alarmTime : (s.startRing).alarmTime = s.alarmTime := rfl
@[simp] theorem startRing_alarmEn : (s.startRing).alarmEn = s.alarmEn := rfl
@[simp] theorem startRing_ringing : (s.startRing).ringing = true := rfl
@[simp] theorem startRing_buf : (s.startRing).buf = s.buf := rfl
@[simp] theorem startRing_activeDigit : (s.startRing).activeDigit = s.activeDigit := rfl
@[simp] theorem startRing_flashFrom : (s.startRing).flashFrom = s.flashFrom := rfl
@[simp] theorem startRing_flashTo : (s.startRing).flashTo = s.flashTo := rfl
@[simp] theorem startRing_flashFactor : (s.startRing).flashFactor = s.flashFactor := rfl
@[simp] theorem startRing_flashCount : (s.startRing).flashCount = s.flashCount := rfl
@[simp] theorem startRing_keyPrev : (s.startRing).keyPrev = s.keyPrev := rfl
@[simp] theorem startRing_mode : (s.startRing).mode = s.mode := rfl
@[simp] theorem startRing_edit : (s.startRing).edit = s.edit := rfl
@[simp] theorem startRing_idleCount : (s.startRing).idleCount = s.idleCount := rfl
@[simp] theorem startRing_halted : (s.startRing).halted = s.halted := rfl

/-! ### stopRing -/

@[simp] theorem stopRing_params : (s.stopRing).params = s.params := rfl
@[simp] theorem stopRing_input : (s.stopRing).input = s.input := rfl
@[simp] theorem stopRing_trace : (s.stopRing).trace = s.trace ++ [.alarmNotify false] := rfl
@[simp] theorem stopRing_draws : (s.stopRing).draws = s.draws := rfl
@[simp] theorem stopRing_time : (s.stopRing).time = s.time := rfl
@[simp] theorem stopRing_tickCount : (s.stopRing).tickCount = s.tickCount := rfl
@[simp] theorem stopRing_seconds : (s.stopRing).seconds = s.seconds := rfl
@[simp] theorem stopRing_clockValid : (s.stopRing).clockValid = s.clockValid := rfl
@[simp] theorem stopRing_alarmTime : (s.stopRing).alarmTime = s.alarmTime := rfl
@[simp] theorem stopRing_alarmEn : (s.stopRing).alarmEn = s.alarmEn := rfl
@[simp] theorem stopRing_ringing : (s.stopRing).ringing = false := rfl
@[simp] theorem stopRing_buf : (s.stopRing).buf = s.buf := rfl
@[simp] theorem stopRing_activeDigit : (s.stopRing).activeDigit = s.activeDigit := rfl
@[simp] theorem stopRing_flashFrom : (s.stopRing).flashFrom = s.flashFrom := rfl
@[simp] theorem stopRing_flashTo : (s.stopRing).flashTo = s.flashTo := rfl
@[simp] theorem stopRing_flashFactor : (s.stopRing).flashFactor = s.flashFactor := rfl
@[simp] theorem stopRing_flashCount : (s.stopRing).flashCount = s.flashCount := rfl
@[simp] theorem stopRing_keyPrev : (s.stopRing).keyPrev = s.keyPrev := rfl
@[simp] theorem stopRing_mode : (s.stopRing).mode = s.mode := rfl
@[simp] theorem stopRing_edit : (s.stopRing).edit = s.edit := rfl
@[simp] theorem stopRing_idleCount : (s.stopRing).idleCount = s.idleCount := rfl
@[simp] theorem stopRing_halted : (s.stopRing).halted = s.halted := rfl

/-! ### drawSegments -/

@[simp] theorem drawSegments_params : (s.drawSegments.2).params = s.params := rfl
@[simp] theorem drawSegments_input : (s.drawSegments.2).input = s.input := rfl
@[simp] theorem drawSegments_trace : (s.drawSegments.2).trace = s.trace := rfl
@[simp] theorem drawSegments_draws : (s.drawSegments.2).draws = s.draws + 1 := rfl
@[simp] theorem drawSegments_time : (s.drawSegments.2).time = s.time := rfl
@[simp] theorem drawSegments_tickCount : (s.drawSegments.2).tickCount = s.tickCount := rfl
@[simp] theorem drawSegments_seconds : (s.drawSegments.2).seconds = s.seconds := rfl
@[simp] theorem drawSegments_clockValid : (s.drawSegments.2).clockValid = s.clockValid := rfl
@[simp] theorem drawSegments_alarmTime : (s.drawSegments.2).alarmTime = s.alarmTime := rfl
@[simp] theorem drawSegments_alarmEn : (s.drawSegments.2).alarmEn = s.alarmEn := rfl
@[simp] theorem drawSegments_ringing : (s.drawSegments.2).ringing = s.ringing := rfl
@[simp] theorem drawSegments_buf : (s.drawSegments.2).buf = s.buf := rfl
@[simp] theorem drawSegments_activeDigit : (s.drawSegments.2).activeDigit = s.activeDigit := rfl
@[simp] theorem drawSegments_flashFrom : (s.drawSegments.2).flashFrom = s.flashFrom := rfl
@[simp] theorem drawSegments_flashTo : (s.drawSegments.2).flashTo = s.flashTo := rfl
@[simp] theorem drawSegments_flashFactor : (s.drawSegments.2).flashFactor = s.flashFactor := rfl
@[simp] theorem drawSegments_flashCount : (s.drawSegments.2).flashCount = s.flashCount := rfl
@[simp] theorem drawSegments_keyPrev : (s.drawSegments.2).keyPrev = s.keyPrev := rfl
@[simp] theorem drawSegments_mode : (s.drawSegments.2).mode = s.mode := rfl
@[simp] theorem drawSegments_edit : (s.drawSegments.2).edit = s.edit := rfl
@[simp] theorem drawSegments_idleCount : (s.drawSegments.2).idleCount = s.idleCount := rfl
@[simp] theorem drawSegments_halted : (s.drawSegments.2).halted = s.halted := rfl

/-! ### setFlashEffect -/

@[simp] theorem setFlashEffect_params (f g : Nat) (x : BitVec 16) : (setFlashEffect s f g x).params = s.params := rfl
@[simp] theorem setFlashEffect_input (f g : Nat) (x : BitVec 16) : (setFlashEffect s f g x).input = s.input := rfl
@[simp] theorem setFlashEffect_trace (f g : Nat) (x : BitVec 16) : (setFlashEffect s f g x).trace = s.trace := rfl
@[simp] theorem setFlashEffect_draws (f g : Nat) (x : BitVec 16) : (setFlashEffect s f g x).draws = s.draws := rfl
@[simp] theorem setFlashEffect_time (f g : Nat) (x : BitVec 16) : (setFlashEffect s f g x).time = s.time := rfl
@[simp] theorem setFlashEffect_tickCount (f g : Nat) (x : BitVec 16) : (setFlashEffect s f g x).tickCount = s.tickCount := rfl
@[simp] theorem setFlashEffect_seconds (f g : Nat) (x : BitVec 16) : (setFlashEffect s f g x).seconds = s.seconds := rfl
@[simp] theorem setFlashEffect_clockValid (f g : Nat) (x : BitVec 16) : (setFlashEffect s f g x).clockValid = s.clockValid := rfl
@[simp] theorem setFlashEffect_alarmTime (f g : Nat) (x : BitVec 16) : (setFlashEffect s f g x).alarmTime = s.alarmTime := rfl
@[simp] theorem setFlashEffect_alarmEn (f g : Nat) (x : BitVec 16) : (setFlashEffect s f g x).alarmEn = s.alarmEn := rfl
@[simp] theorem setFlashEffect_ringing (f g : Nat) (x : BitVec 16) : (setFlashEffect s f g x).ringing = s.ringing := rfl
@[simp] theorem setFlashEffect_buf (f g : Nat) (x : BitVec 16) : (setFlashEffect s f g x).buf = s.buf := rfl
@[simp] theorem setFlashEffect_activeDigit (f g : Nat) (x : BitVec 16) : (setFlashEffect s f g x).activeDigit = s.activeDigit := rfl
@[simp] theorem setFlashEffect_flashFrom (f g : Nat) (x : BitVec 16) : (setFlashEffect s f g x).flashFrom = BitVec.ofNat 4 (f % (s.params.digitCount + 1)) := rfl
@[simp] theorem setFlashEffect_flashTo (f g : Nat) (x : BitVec 16) : (setFlashEffect s f g x).flashTo = BitVec.ofNat 4 (g % (s.params.digitCount + 1)) := rfl
@[simp] theorem setFlashEffect_flashFactor (f g : Nat) (x : BitVec 16) : (setFlashEffect s f g x).flashFactor = x := rfl
@[simp] theorem setFlashEffect_flashCount (f g : Nat) (x : BitVec 16) : (setFlashEffect s f g x).flashCount = 0#16 := rfl
@[simp] theorem setFlashEffect_keyPrev (f g : Nat) (x : BitVec 16) : (setFlashEffect s f g x).keyPrev = s.keyPrev := rfl
@[simp] theorem setFlashEffect_mode (f g : Nat) (x : BitVec 16) : (setFlashEffect s f g x).mode = s.mode := rfl
@[simp] theorem setFlashEffect_edit (f g : Nat) (x : BitVec 16) : (setFlashEffect s f g x).edit = s.edit := rfl
@[simp] theorem setFlashEffect_idleCount (f g : Nat) (x : BitVec 16) : (setFlashEffect s f g x).idleCount = s.idleCount := rfl
@[simp] theorem setFlashEffect_halted (f g : Nat) (x : BitVec 16) : (setFlashEffect s f g x).halted = s.halted := rfl

/-! ### advanceScan -/

@[simp] theorem advanceScan_params : (advanceScan s).params = s.params := rfl
@[simp] theorem advanceScan_input : (advanceScan s).input = s.input := rfl
@[simp] theorem advanceScan_trace : (advanceScan s).trace = s.trace := rfl
@[simp] theorem advanceScan_draws : (advanceScan s).draws = s.draws := rfl
@[simp] theorem advanceScan_time : (advanceScan s).time = s.time := rfl
@[simp] theorem advanceScan_tickCount : (advanceScan s).tickCount = s.tickCount := rfl
@[simp] theorem advanceScan_seconds : (advanceScan s).seconds = s.seconds := rfl
@[simp] theorem advanceScan_clockValid : (advanceScan s).clockValid = s.clockValid := rfl
@[simp] theorem advanceScan_alarmTime : (advanceScan s).alarmTime = s.alarmTime := rfl
@[simp] theorem advanceScan_alarmEn : (advanceScan s).alarmEn = s.alarmEn := rfl
@[simp] theorem advanceScan_ringing : (advanceScan s).ringing = s.ringing := rfl
@[simp] theorem advanceScan_buf : (advanceScan s).buf = s.buf := rfl
@[simp] theorem advanceScan_activeDigit : (advanceScan s).activeDigit = BitVec.ofNat 3 ((s.activeDigit.toNat + 1) % s.params.digitCount) := rfl
@[simp] theorem advanceScan_flashFrom : (advanceScan s).flashFrom = s.flashFrom := rfl
@[simp] theorem advanceScan_flashTo : (advanceScan s).flashTo = s.flashTo := rfl
@[simp] theorem advanceScan_flashFactor : (advanceScan s).flashFactor = s.flashFactor := rfl
@[simp] theorem advanceScan_flashCount : (advanceScan s).flashCount = s.flashCount := rfl
@[simp] theorem advanceScan_keyPrev : (advanceScan s).keyPrev = s.keyPrev := rfl
@[simp] theorem advanceScan_mode : (advanceScan s).mode = s.mode := rfl
@[simp] theorem advanceScan_edit : (advanceScan s).edit = s.edit := rfl
@[simp] theorem advanceScan_idleCount : (advanceScan s).idleCount = s.idleCount := rfl
@[simp] theorem advanceScan_halted : (advanceScan s).halted = s.halted := rfl

/-! ### countTick -/

@[simp] theorem countTick_params : (countTick s).params = s.params := rfl
@[simp] theorem countTick_input : (countTick s).input = s.input := rfl
@[simp] theorem countTick_trace : (countTick s).trace = s.trace := rfl
@[simp] theorem countTick_draws : (countTick s).draws = s.draws := rfl
@[simp] theorem countTick_time : (countTick s).time = s.time := rfl
@[simp] theorem countTick_tickCount : (countTick s).tickCount = BitVec.ofNat 16 ((s.tickCount.toNat + 1) % s.params.ticksPerSecond.toNat) := rfl
@[simp] theorem countTick_seconds : (countTick s).seconds = s.seconds := rfl
@[simp] theorem countTick_clockValid : (countTick s).clockValid = s.clockValid := rfl
@[simp] theorem countTick_alarmTime : (countTick s).alarmTime = s.alarmTime := rfl
@[simp] theorem countTick_alarmEn : (countTick s).alarmEn = s.alarmEn := rfl
@[simp] theorem countTick_ringing : (countTick s).ringing = s.ringing := rfl
@[simp] theorem countTick_buf : (countTick s).buf = s.buf := rfl
@[simp] theorem countTick_activeDigit : (countTick s).activeDigit = s.activeDigit := rfl
@[simp] theorem countTick_flashFrom : (countTick s).flashFrom = s.flashFrom := rfl
@[simp] theorem countTick_flashTo : (countTick s).flashTo = s.flashTo := rfl
@[simp] theorem countTick_flashFactor : (countTick s).flashFactor = s.flashFactor := rfl
@[simp] theorem countTick_flashCount : (countTick s).flashCount = s.flashCount := rfl
@[simp] theorem countTick_keyPrev : (countTick s).keyPrev = s.keyPrev := rfl
@[simp] theorem countTick_mode : (countTick s).mode = s.mode := rfl
@[simp] theorem countTick_edit : (countTick s).edit = s.edit := rfl
@[simp] theorem countTick_idleCount : (countTick s).idleCount = s.idleCount := rfl
@[simp] theorem countTick_halted : (countTick s).halted = s.halted := rfl

/-! ### bufWrite -/

@[simp] theorem bufWrite_params (i : Nat) (v : Byte) : (s.bufWrite i v).params = s.params := by
  unfold State.bufWrite; split <;> rfl
@[simp] theorem bufWrite_input (i : Nat) (v : Byte) : (s.bufWrite i v).input = s.input := by
  unfold State.bufWrite; split <;> rfl
@[simp] theorem bufWrite_trace (i : Nat) (v : Byte) : (s.bufWrite i v).trace = s.trace := by
  unfold State.bufWrite; split <;> rfl
@[simp] theorem bufWrite_draws (i : Nat) (v : Byte) : (s.bufWrite i v).draws = s.draws := by
  unfold State.bufWrite; split <;> rfl
@[simp] theorem bufWrite_time (i : Nat) (v : Byte) : (s.bufWrite i v).time = s.time := by
  unfold State.bufWrite; split <;> rfl
@[simp] theorem bufWrite_tickCount (i : Nat) (v : Byte) : (s.bufWrite i v).tickCount = s.tickCount := by
  unfold State.bufWrite; split <;> rfl
@[simp] theorem bufWrite_seconds (i : Nat) (v : Byte) : (s.bufWrite i v).seconds = s.seconds := by
  unfold State.bufWrite; split <;> rfl
@[simp] theorem bufWrite_clockValid (i : Nat) (v : Byte) : (s.bufWrite i v).clockValid = s.clockValid := by
  unfold State.bufWrite; split <;> rfl
@[simp] theorem bufWrite_alarmTime (i : Nat) (v : Byte) : (s.bufWrite i v).alarmTime = s.alarmTime := by
  unfold State.bufWrite; split <;> rfl
@[simp] theorem bufWrite_alarmEn (i : Nat) (v : Byte) : (s.bufWrite i v).alarmEn = s.alarmEn := by
  unfold State.bufWrite; split <;> rfl
@[simp] theorem bufWrite_ringing (i : Nat) (v : Byte) : (s.bufWrite i v).ringing = s.ringing := by
  unfold State.bufWrite; split <;> rfl
theorem bufWrite_buf (i : Nat) (v : Byte) :
    (s.bufWrite i v).buf = if i < s.params.digitCount then s.buf.write i v else s.buf := by
  unfold State.bufWrite; split <;> rfl
@[simp] theorem bufWrite_activeDigit (i : Nat) (v : Byte) : (s.bufWrite i v).activeDigit = s.activeDigit := by
  unfold State.bufWrite; split <;> rfl
@[simp] theorem bufWrite_flashFrom (i : Nat) (v : Byte) : (s.bufWrite i v).flashFrom = s.flashFrom := by
  unfold State.bufWrite; split <;> rfl
@[simp] theorem bufWrite_flashTo (i : Nat) (v : Byte) : (s.bufWrite i v).flashTo = s.flashTo := by
  unfold State.bufWrite; split <;> rfl
@[simp] theorem bufWrite_flashFactor (i : Nat) (v : Byte) : (s.bufWrite i v).flashFactor = s.flashFactor := by
  unfold State.bufWrite; split <;> rfl
@[simp] theorem bufWrite_flashCount (i : Nat) (v : Byte) : (s.bufWrite i v).flashCount = s.flashCount := by
  unfold State.bufWrite; split <;> rfl
@[simp] theorem bufWrite_keyPrev (i : Nat) (v : Byte) : (s.bufWrite i v).keyPrev = s.keyPrev := by
  unfold State.bufWrite; split <;> rfl
@[simp] theorem bufWrite_mode (i : Nat) (v : Byte) : (s.bufWrite i v).mode = s.mode := by
  unfold State.bufWrite; split <;> rfl
@[simp] theorem bufWrite_edit (i : Nat) (v : Byte) : (s.bufWrite i v).edit = s.edit := by
  unfold State.bufWrite; split <;> rfl
@[simp] theorem bufWrite_idleCount (i : Nat) (v : Byte) : (s.bufWrite i v).idleCount = s.idleCount := by
  unfold State.bufWrite; split <;> rfl
@[simp] theorem bufWrite_halted (i : Nat) (v : Byte) : (s.bufWrite i v).halted = s.halted := by
  unfold State.bufWrite; split <;> rfl

end Sys2Proof.Machine
end

