-- ==== Sys2Proof/Laws/Memory.lean ====
section
/-!
SUPPORT. The laws of the display buffer: a read after a write, the frame of a write, and the canonical form, which every operation
keeps.
-/

namespace Sys2Proof.Machine

@[simp] theorem read_nil (a : Nat) : Memory.read [] a = Memory.unlisted := rfl

theorem read_cons (b : Nat) (v : Byte) (m : Memory) (a : Nat) :
    Memory.read ((b, v) :: m) a = if b = a then v else m.read a := rfl

/-- A digit no pair lists reads as the unlisted byte. -/
theorem read_of_forall_ne (m : Memory) (a : Nat) (h : ∀ c ∈ m, c.1 ≠ a) :
    m.read a = Memory.unlisted := by
  induction m with
  | nil => rfl
  | cons c m ih =>
    rw [read_cons, if_neg (h c (by simp)), ih fun d hd => h d (by simp [hd])]

theorem mem_remove (m : Memory) (a : Nat) (c : Host.Cell) :
    c ∈ m.remove a ↔ c ∈ m ∧ c.1 ≠ a := by
  simp [Memory.remove]

theorem read_remove_same (m : Memory) (a : Nat) : (m.remove a).read a = Memory.unlisted :=
  read_of_forall_ne _ _ fun c hc => ((mem_remove m a c).1 hc).2

theorem read_remove_other (m : Memory) (a b : Nat) (h : b ≠ a) : (m.remove a).read b = m.read b := by
  induction m with
  | nil => rfl
  | cons c m ih =>
    by_cases hc : c.1 = a
    · have hb : ¬ c.1 = b := fun e => h (e.symm.trans hc)
      have : Memory.remove (c :: m) a = Memory.remove m a := by simp [Memory.remove, hc]
      rw [this, ih, read_cons, if_neg hb]
    · have : Memory.remove (c :: m) a = c :: Memory.remove m a := by simp [Memory.remove, hc]
      rw [this, read_cons, read_cons, ih]

theorem read_insert (m : Memory) (a : Nat) (v : Byte) (h : ∀ c ∈ m, c.1 ≠ a) (b : Nat) :
    (m.insert a v).read b = if b = a then v else m.read b := by
  induction m with
  | nil => simp [Memory.insert, read_cons, eq_comm]
  | cons c m ih =>
    obtain ⟨k, w⟩ := c
    have hk : k ≠ a := h (k, w) (by simp)
    unfold Memory.insert
    split
    · simp [read_cons, eq_comm]
    · rw [read_cons, ih fun d hd => h d (by simp [hd]), read_cons]
      by_cases hb : b = a
      · subst hb; simp [hk]
      · simp [hb]

/-- What a write leaves at every digit: the byte written at its own, the old byte at every other. -/
theorem read_write (m : Memory) (a : Nat) (v : Byte) (b : Nat) :
    (m.write a v).read b = if b = a then v else m.read b := by
  unfold Memory.write
  split
  · rename_i hv
    by_cases hb : b = a
    · subst hb; simp [read_remove_same, hv]
    · simp [read_remove_other _ _ _ hb, hb]
  · rw [read_insert _ _ _ fun c hc => ((mem_remove m a c).1 hc).2]
    by_cases hb : b = a
    · simp [hb]
    · simp [hb, read_remove_other _ _ _ hb]

theorem mem_insert (m : Memory) (a : Nat) (v : Byte) (c : Host.Cell) :
    c ∈ m.insert a v ↔ c = (a, v) ∨ c ∈ m := by
  induction m with
  | nil => simp [Memory.insert]
  | cons d m ih =>
    obtain ⟨k, w⟩ := d
    unfold Memory.insert
    split
    · simp
    · simp only [List.mem_cons, ih]; tauto

theorem insert_sorted (m : Memory) (a : Nat) (v : Byte)
    (hs : m.Pairwise fun c d : Host.Cell => c.1 < d.1) (hne : ∀ c ∈ m, c.1 ≠ a) :
    (m.insert a v).Pairwise fun c d : Host.Cell => c.1 < d.1 := by
  induction m with
  | nil => simp [Memory.insert]
  | cons c m ih =>
    obtain ⟨k, w⟩ := c
    have hk : k ≠ a := hne (k, w) (by simp)
    rw [List.pairwise_cons] at hs
    unfold Memory.insert
    split
    · rename_i hlt
      refine List.pairwise_cons.2 ⟨?_, List.pairwise_cons.2 hs⟩
      intro d hd
      rcases List.mem_cons.1 hd with rfl | hd
      · exact hlt
      · exact hlt.trans (hs.1 d hd)
    · refine List.pairwise_cons.2 ⟨?_, ih hs.2 fun d hd => hne d (by simp [hd])⟩
      intro d hd
      rcases (mem_insert m a v d).1 hd with rfl | hd
      · show k < a; omega
      · exact hs.1 d hd

theorem remove_wf (m : Memory) (a : Nat) (h : m.wf) : (m.remove a).wf :=
  ⟨h.1.filter _, fun c hc => h.2 c ((mem_remove m a c).1 hc).1⟩

theorem insert_wf (m : Memory) (a : Nat) (v : Byte) (h : m.wf) (hne : ∀ c ∈ m, c.1 ≠ a)
    (hv : v ≠ Memory.unlisted) : (m.insert a v).wf := by
  refine ⟨insert_sorted m a v h.1 hne, fun c hc => ?_⟩
  rcases (mem_insert m a v c).1 hc with rfl | hc
  · exact hv
  · exact h.2 c hc

/-- A write keeps the canonical form. -/
theorem write_wf (m : Memory) (a : Nat) (v : Byte) (h : m.wf) : (m.write a v).wf := by
  unfold Memory.write
  split
  · exact remove_wf m a h
  · exact insert_wf _ a v (remove_wf m a h) (fun c hc => ((mem_remove m a c).1 hc).2) ‹_›

/-- A write lists no digit but its own and those listed before. -/
theorem mem_write (m : Memory) (a : Nat) (v : Byte) (c : Host.Cell) (h : c ∈ m.write a v) :
    c.1 = a ∨ c ∈ m := by
  unfold Memory.write at h
  split at h
  · exact .inr ((mem_remove m a c).1 h).1
  · rcases (mem_insert _ _ _ _).1 h with rfl | h
    · exact .inl rfl
    · exact .inr ((mem_remove m a c).1 h).1

/-- The canonical form, with every listed digit below the digit count. -/
def State.BufForm (s : State) : Prop := s.buf.wf ∧ ∀ c ∈ s.buf, c.1 < s.params.digitCount

/-- A buffer write keeps the canonical form and lists no entry at or above `N` (R60). -/
theorem bufWrite_bufForm (s : State) (i : Nat) (v : Byte) (h : s.BufForm) : (s.bufWrite i v).BufForm := by
  unfold State.bufWrite
  split
  · refine ⟨write_wf _ _ _ h.1, fun c hc => ?_⟩
    rcases mem_write _ _ _ _ hc with e | hc
    · show c.1 < s.params.digitCount; omega
    · exact h.2 c hc
  · exact h

/-- What a buffer write leaves at every digit (R60). -/
theorem bufRead_bufWrite (s : State) (i : Nat) (v : Byte) (j : Nat) :
    (s.bufWrite i v).bufRead j = if j = i ∧ i < s.params.digitCount then v else s.bufRead j := by
  unfold State.bufWrite
  split
  · simp [State.bufRead, read_write, *]
  · simp [*]

theorem reset_buf_wf (p : Params) : (State.resetWith p).buf.wf := by
  refine ⟨?_, ?_⟩ <;> simp [State.resetWith]

end Sys2Proof.Machine
end

