-- ==== Sys2Proof/Laws/Display.lean ====
section
/-!
SUPPORT. What the display operations can do: they change the buffer and the draw counter alone, and the buffer entry by entry as
41_display.md R151 and R156-R158 say.
-/

namespace Sys2Proof.Machine

/-! ### The parts of an entry -/

theorem dotOf_append (b : Byte) : entryOf (dotOf b) 0#7 = b &&& 0x80#8 := by
  revert b; decide

theorem entryOf_split (dot : BitVec 1) (segments : Segments) :
    entryOf dot segments = entryOf dot 0#7 ||| segments.setWidth 8 := by
  revert dot segments; decide

theorem entryOf_dotOf (b : Byte) (segments : Segments) :
    entryOf (dotOf b) segments = (b &&& 0x80#8) ||| segments.setWidth 8 := by
  rw [entryOf_split, dotOf_append]

theorem entryOf_not_dotOf (b : Byte) : entryOf (~~~dotOf b) (segmentsOf b) = b ^^^ 0x80#8 := by
  revert b; decide

theorem entryOf_one (b : Byte) : entryOf 1#1 (segmentsOf b) = b ||| 0x80#8 := by
  revert b; decide

theorem entryOf_zero (b : Byte) : entryOf 0#1 (segmentsOf b) = b &&& 0x7F#8 := by
  revert b; decide

theorem entryOf_and (dot : BitVec 1) (segments : Segments) :
    entryOf dot segments &&& 0x80#8 = entryOf dot 0#7 := by
  revert dot segments; decide

theorem entryOf_and_dot (b : Byte) (segments : Segments) :
    entryOf (dotOf b) segments &&& 0x80#8 = b &&& 0x80#8 := by
  rw [entryOf_and, dotOf_append]

/-! ### Frames -/

theorem segmentsFor_of_lt (s : State) (v : Digit) (h : v.toNat < 10) :
    segmentsFor s v = ((s.params.segTable[v.toNat]?).getD 0#7, s) := by
  simp [segmentsFor, h]

theorem segmentsFor_of_ge (s : State) (v : Digit) (h : ¬ v.toNat < 10) :
    segmentsFor s v = s.drawSegments := by
  simp [segmentsFor, h]

theorem segmentsFor_frame (s : State) (v : Digit) :
    { (segmentsFor s v).2 with draws := s.draws } = s := by
  unfold segmentsFor; split <;> rfl

theorem bufWrite_frame (s : State) (i : Nat) (v : Byte) : { s.bufWrite i v with buf := s.buf } = s := by
  unfold State.bufWrite; split <;> rfl

theorem writeSegments_frame (s : State) (i : Nat) (v : Digit) :
    { writeSegments s i v with buf := s.buf, draws := s.draws } = s := by
  simp only [writeSegments, segmentsFor, State.drawSegments, State.bufWrite]
  split <;> split <;> rfl

theorem frame_trans {s t u : State} (h : { t with buf := s.buf, draws := s.draws } = s)
    (h' : { u with buf := t.buf, draws := t.draws } = t) :
    { u with buf := s.buf, draws := s.draws } = s := by
  rw [← h'] at h; exact h

theorem writeSegmentsFrom_frame (s : State) (i : Nat) (vs : List Digit) :
    { writeSegmentsFrom s i vs with buf := s.buf, draws := s.draws } = s := by
  induction vs generalizing s i with
  | nil => rfl
  | cons v vs ih => exact frame_trans (writeSegments_frame s i v) (ih _ _)

theorem writeDigitsEffect_frame (s : State) (cnt : Nat) (vs : List Digit) :
    { writeDigitsEffect s cnt vs with buf := s.buf, draws := s.draws } = s :=
  writeSegmentsFrom_frame _ _ _

theorem toggleDotEffect_frame (s : State) (i : Nat) : { toggleDotEffect s i with buf := s.buf } = s :=
  bufWrite_frame _ _ _

theorem forceDots_frame (s : State) (dot : BitVec 1) (mask : Byte) (k : Nat) :
    { forceDots s dot mask k with buf := s.buf } = s := by
  induction k with
  | zero => rfl
  | succ k ih =>
    unfold forceDots
    dsimp only
    split
    · have := bufWrite_frame (forceDots s dot mask k) k
        (entryOf dot (segmentsOf ((forceDots s dot mask k).bufRead k)))
      have ih' := ih
      rw [← this] at ih'
      exact ih'
    · exact ih

/-! ### writeSegments: the fields it leaves alone -/

@[simp] theorem writeSegments_params (s : State) (i : Nat) (v : Digit) : (writeSegments s i v).params = s.params :=
  have h := congrArg State.params (writeSegments_frame s i v); h
@[simp] theorem writeSegments_input (s : State) (i : Nat) (v : Digit) : (writeSegments s i v).input = s.input :=
  have h := congrArg State.input (writeSegments_frame s i v); h
@[simp] theorem writeSegments_trace (s : State) (i : Nat) (v : Digit) : (writeSegments s i v).trace = s.trace :=
  have h := congrArg State.trace (writeSegments_frame s i v); h
@[simp] theorem writeSegments_time (s : State) (i : Nat) (v : Digit) : (writeSegments s i v).time = s.time :=
  have h := congrArg State.time (writeSegments_frame s i v); h
@[simp] theorem writeSegments_tickCount (s : State) (i : Nat) (v : Digit) : (writeSegments s i v).tickCount = s.tickCount :=
  have h := congrArg State.tickCount (writeSegments_frame s i v); h
@[simp] theorem writeSegments_seconds (s : State) (i : Nat) (v : Digit) : (writeSegments s i v).seconds = s.seconds :=
  have h := congrArg State.seconds (writeSegments_frame s i v); h
@[simp] theorem writeSegments_clockValid (s : State) (i : Nat) (v : Digit) : (writeSegments s i v).clockValid = s.clockValid :=
  have h := congrArg State.clockValid (writeSegments_frame s i v); h
@[simp] theorem writeSegments_alarmTime (s : State) (i : Nat) (v : Digit) : (writeSegments s i v).alarmTime = s.alarmTime :=
  have h := congrArg State.alarmTime (writeSegments_frame s i v); h
@[simp] theorem writeSegments_alarmEn (s : State) (i : Nat) (v : Digit) : (writeSegments s i v).alarmEn = s.alarmEn :=
  have h := congrArg State.alarmEn (writeSegments_frame s i v); h
@[simp] theorem writeSegments_ringing (s : State) (i : Nat) (v : Digit) : (writeSegments s i v).ringing = s.ringing :=
  have h := congrArg State.ringing (writeSegments_frame s i v); h
@[simp] theorem writeSegments_activeDigit (s : State) (i : Nat) (v : Digit) : (writeSegments s i v).activeDigit = s.activeDigit :=
  have h := congrArg State.activeDigit (writeSegments_frame s i v); h
@[simp] theorem writeSegments_flashFrom (s : State) (i : Nat) (v : Digit) : (writeSegments s i v).flashFrom = s.flashFrom :=
  have h := congrArg State.flashFrom (writeSegments_frame s i v); h
@[simp] theorem writeSegments_flashTo (s : State) (i : Nat) (v : Digit) : (writeSegments s i v).flashTo = s.flashTo :=
  have h := congrArg State.flashTo (writeSegments_frame s i v); h
@[simp] theorem writeSegments_flashFactor (s : State) (i : Nat) (v : Digit) : (writeSegments s i v).flashFactor = s.flashFactor :=
  have h := congrArg State.flashFactor (writeSegments_frame s i v); h
@[simp] theorem writeSegments_flashCount (s : State) (i : Nat) (v : Digit) : (writeSegments s i v).flashCount = s.flashCount :=
  have h := congrArg State.flashCount (writeSegments_frame s i v); h
@[simp] theorem writeSegments_keyPrev (s : State) (i : Nat) (v : Digit) : (writeSegments s i v).keyPrev = s.keyPrev :=
  have h := congrArg State.keyPrev (writeSegments_frame s i v); h
@[simp] theorem writeSegments_mode (s : State) (i : Nat) (v : Digit) : (writeSegments s i v).mode = s.mode :=
  have h := congrArg State.mode (writeSegments_frame s i v); h
@[simp] theorem writeSegments_edit (s : State) (i : Nat) (v : Digit) : (writeSegments s i v).edit = s.edit :=
  have h := congrArg State.edit (writeSegments_frame s i v); h
@[simp] theorem writeSegments_idleCount (s : State) (i : Nat) (v : Digit) : (writeSegments s i v).idleCount = s.idleCount :=
  have h := congrArg State.idleCount (writeSegments_frame s i v); h
@[simp] theorem writeSegments_halted (s : State) (i : Nat) (v : Digit) : (writeSegments s i v).halted = s.halted :=
  have h := congrArg State.halted (writeSegments_frame s i v); h

/-! ### writeSegmentsFrom: the fields it leaves alone -/

@[simp] theorem writeSegmentsFrom_params (s : State) (i : Nat) (vs : List Digit) : (writeSegmentsFrom s i vs).params = s.params :=
  have h := congrArg State.params (writeSegmentsFrom_frame s i vs); h
@[simp] theorem writeSegmentsFrom_input (s : State) (i : Nat) (vs : List Digit) : (writeSegmentsFrom s i vs).input = s.input :=
  have h := congrArg State.input (writeSegmentsFrom_frame s i vs); h
@[simp] theorem writeSegmentsFrom_trace (s : State) (i : Nat) (vs : List Digit) : (writeSegmentsFrom s i vs).trace = s.trace :=
  have h := congrArg State.trace (writeSegmentsFrom_frame s i vs); h
@[simp] theorem writeSegmentsFrom_time (s : State) (i : Nat) (vs : List Digit) : (writeSegmentsFrom s i vs).time = s.time :=
  have h := congrArg State.time (writeSegmentsFrom_frame s i vs); h
@[simp] theorem writeSegmentsFrom_tickCount (s : State) (i : Nat) (vs : List Digit) : (writeSegmentsFrom s i vs).tickCount = s.tickCount :=
  have h := congrArg State.tickCount (writeSegmentsFrom_frame s i vs); h
@[simp] theorem writeSegmentsFrom_seconds (s : State) (i : Nat) (vs : List Digit) : (writeSegmentsFrom s i vs).seconds = s.seconds :=
  have h := congrArg State.seconds (writeSegmentsFrom_frame s i vs); h
@[simp] theorem writeSegmentsFrom_clockValid (s : State) (i : Nat) (vs : List Digit) : (writeSegmentsFrom s i vs).clockValid = s.clockValid :=
  have h := congrArg State.clockValid (writeSegmentsFrom_frame s i vs); h
@[simp] theorem writeSegmentsFrom_alarmTime (s : State) (i : Nat) (vs : List Digit) : (writeSegmentsFrom s i vs).alarmTime = s.alarmTime :=
  have h := congrArg State.alarmTime (writeSegmentsFrom_frame s i vs); h
@[simp] theorem writeSegmentsFrom_alarmEn (s : State) (i : Nat) (vs : List Digit) : (writeSegmentsFrom s i vs).alarmEn = s.alarmEn :=
  have h := congrArg State.alarmEn (writeSegmentsFrom_frame s i vs); h
@[simp] theorem writeSegmentsFrom_ringing (s : State) (i : Nat) (vs : List Digit) : (writeSegmentsFrom s i vs).ringing = s.ringing :=
  have h := congrArg State.ringing (writeSegmentsFrom_frame s i vs); h
@[simp] theorem writeSegmentsFrom_activeDigit (s : State) (i : Nat) (vs : List Digit) : (writeSegmentsFrom s i vs).activeDigit = s.activeDigit :=
  have h := congrArg State.activeDigit (writeSegmentsFrom_frame s i vs); h
@[simp] theorem writeSegmentsFrom_flashFrom (s : State) (i : Nat) (vs : List Digit) : (writeSegmentsFrom s i vs).flashFrom = s.flashFrom :=
  have h := congrArg State.flashFrom (writeSegmentsFrom_frame s i vs); h
@[simp] theorem writeSegmentsFrom_flashTo (s : State) (i : Nat) (vs : List Digit) : (writeSegmentsFrom s i vs).flashTo = s.flashTo :=
  have h := congrArg State.flashTo (writeSegmentsFrom_frame s i vs); h
@[simp] theorem writeSegmentsFrom_flashFactor (s : State) (i : Nat) (vs : List Digit) : (writeSegmentsFrom s i vs).flashFactor = s.flashFactor :=
  have h := congrArg State.flashFactor (writeSegmentsFrom_frame s i vs); h
@[simp] theorem writeSegmentsFrom_flashCount (s : State) (i : Nat) (vs : List Digit) : (writeSegmentsFrom s i vs).flashCount = s.flashCount :=
  have h := congrArg State.flashCount (writeSegmentsFrom_frame s i vs); h
@[simp] theorem writeSegmentsFrom_keyPrev (s : State) (i : Nat) (vs : List Digit) : (writeSegmentsFrom s i vs).keyPrev = s.keyPrev :=
  have h := congrArg State.keyPrev (writeSegmentsFrom_frame s i vs); h
@[simp] theorem writeSegmentsFrom_mode (s : State) (i : Nat) (vs : List Digit) : (writeSegmentsFrom s i vs).mode = s.mode :=
  have h := congrArg State.mode (writeSegmentsFrom_frame s i vs); h
@[simp] theorem writeSegmentsFrom_edit (s : State) (i : Nat) (vs : List Digit) : (writeSegmentsFrom s i vs).edit = s.edit :=
  have h := congrArg State.edit (writeSegmentsFrom_frame s i vs); h
@[simp] theorem writeSegmentsFrom_idleCount (s : State) (i : Nat) (vs : List Digit) : (writeSegmentsFrom s i vs).idleCount = s.idleCount :=
  have h := congrArg State.idleCount (writeSegmentsFrom_frame s i vs); h
@[simp] theorem writeSegmentsFrom_halted (s : State) (i : Nat) (vs : List Digit) : (writeSegmentsFrom s i vs).halted = s.halted :=
  have h := congrArg State.halted (writeSegmentsFrom_frame s i vs); h

/-! ### writeDigitsEffect: the fields it leaves alone -/

@[simp] theorem writeDigitsEffect_params (s : State) (cnt : Nat) (vs : List Digit) : (writeDigitsEffect s cnt vs).params = s.params :=
  have h := congrArg State.params (writeDigitsEffect_frame s cnt vs); h
@[simp] theorem writeDigitsEffect_input (s : State) (cnt : Nat) (vs : List Digit) : (writeDigitsEffect s cnt vs).input = s.input :=
  have h := congrArg State.input (writeDigitsEffect_frame s cnt vs); h
@[simp] theorem writeDigitsEffect_trace (s : State) (cnt : Nat) (vs : List Digit) : (writeDigitsEffect s cnt vs).trace = s.trace :=
  have h := congrArg State.trace (writeDigitsEffect_frame s cnt vs); h
@[simp] theorem writeDigitsEffect_time (s : State) (cnt : Nat) (vs : List Digit) : (writeDigitsEffect s cnt vs).time = s.time :=
  have h := congrArg State.time (writeDigitsEffect_frame s cnt vs); h
@[simp] theorem writeDigitsEffect_tickCount (s : State) (cnt : Nat) (vs : List Digit) : (writeDigitsEffect s cnt vs).tickCount = s.tickCount :=
  have h := congrArg State.tickCount (writeDigitsEffect_frame s cnt vs); h
@[simp] theorem writeDigitsEffect_seconds (s : State) (cnt : Nat) (vs : List Digit) : (writeDigitsEffect s cnt vs).seconds = s.seconds :=
  have h := congrArg State.seconds (writeDigitsEffect_frame s cnt vs); h
@[simp] theorem writeDigitsEffect_clockValid (s : State) (cnt : Nat) (vs : List Digit) : (writeDigitsEffect s cnt vs).clockValid = s.clockValid :=
  have h := congrArg State.clockValid (writeDigitsEffect_frame s cnt vs); h
@[simp] theorem writeDigitsEffect_alarmTime (s : State) (cnt : Nat) (vs : List Digit) : (writeDigitsEffect s cnt vs).alarmTime = s.alarmTime :=
  have h := congrArg State.alarmTime (writeDigitsEffect_frame s cnt vs); h
@[simp] theorem writeDigitsEffect_alarmEn (s : State) (cnt : Nat) (vs : List Digit) : (writeDigitsEffect s cnt vs).alarmEn = s.alarmEn :=
  have h := congrArg State.alarmEn (writeDigitsEffect_frame s cnt vs); h
@[simp] theorem writeDigitsEffect_ringing (s : State) (cnt : Nat) (vs : List Digit) : (writeDigitsEffect s cnt vs).ringing = s.ringing :=
  have h := congrArg State.ringing (writeDigitsEffect_frame s cnt vs); h
@[simp] theorem writeDigitsEffect_activeDigit (s : State) (cnt : Nat) (vs : List Digit) : (writeDigitsEffect s cnt vs).activeDigit = s.activeDigit :=
  have h := congrArg State.activeDigit (writeDigitsEffect_frame s cnt vs); h
@[simp] theorem writeDigitsEffect_flashFrom (s : State) (cnt : Nat) (vs : List Digit) : (writeDigitsEffect s cnt vs).flashFrom = s.flashFrom :=
  have h := congrArg State.flashFrom (writeDigitsEffect_frame s cnt vs); h
@[simp] theorem writeDigitsEffect_flashTo (s : State) (cnt : Nat) (vs : List Digit) : (writeDigitsEffect s cnt vs).flashTo = s.flashTo :=
  have h := congrArg State.flashTo (writeDigitsEffect_frame s cnt vs); h
@[simp] theorem writeDigitsEffect_flashFactor (s : State) (cnt : Nat) (vs : List Digit) : (writeDigitsEffect s cnt vs).flashFactor = s.flashFactor :=
  have h := congrArg State.flashFactor (writeDigitsEffect_frame s cnt vs); h
@[simp] theorem writeDigitsEffect_flashCount (s : State) (cnt : Nat) (vs : List Digit) : (writeDigitsEffect s cnt vs).flashCount = s.flashCount :=
  have h := congrArg State.flashCount (writeDigitsEffect_frame s cnt vs); h
@[simp] theorem writeDigitsEffect_keyPrev (s : State) (cnt : Nat) (vs : List Digit) : (writeDigitsEffect s cnt vs).keyPrev = s.keyPrev :=
  have h := congrArg State.keyPrev (writeDigitsEffect_frame s cnt vs); h
@[simp] theorem writeDigitsEffect_mode (s : State) (cnt : Nat) (vs : List Digit) : (writeDigitsEffect s cnt vs).mode = s.mode :=
  have h := congrArg State.mode (writeDigitsEffect_frame s cnt vs); h
@[simp] theorem writeDigitsEffect_edit (s : State) (cnt : Nat) (vs : List Digit) : (writeDigitsEffect s cnt vs).edit = s.edit :=
  have h := congrArg State.edit (writeDigitsEffect_frame s cnt vs); h
@[simp] theorem writeDigitsEffect_idleCount (s : State) (cnt : Nat) (vs : List Digit) : (writeDigitsEffect s cnt vs).idleCount = s.idleCount :=
  have h := congrArg State.idleCount (writeDigitsEffect_frame s cnt vs); h
@[simp] theorem writeDigitsEffect_halted (s : State) (cnt : Nat) (vs : List Digit) : (writeDigitsEffect s cnt vs).halted = s.halted :=
  have h := congrArg State.halted (writeDigitsEffect_frame s cnt vs); h

/-! ### showDigits: the fields it leaves alone -/

@[simp] theorem showDigits_params (s : State) (d : Time) : (showDigits s d).params = s.params :=
  have h := congrArg State.params (writeDigitsEffect_frame s 4 d.digits); h
@[simp] theorem showDigits_input (s : State) (d : Time) : (showDigits s d).input = s.input :=
  have h := congrArg State.input (writeDigitsEffect_frame s 4 d.digits); h
@[simp] theorem showDigits_trace (s : State) (d : Time) : (showDigits s d).trace = s.trace :=
  have h := congrArg State.trace (writeDigitsEffect_frame s 4 d.digits); h
@[simp] theorem showDigits_time (s : State) (d : Time) : (showDigits s d).time = s.time :=
  have h := congrArg State.time (writeDigitsEffect_frame s 4 d.digits); h
@[simp] theorem showDigits_tickCount (s : State) (d : Time) : (showDigits s d).tickCount = s.tickCount :=
  have h := congrArg State.tickCount (writeDigitsEffect_frame s 4 d.digits); h
@[simp] theorem showDigits_seconds (s : State) (d : Time) : (showDigits s d).seconds = s.seconds :=
  have h := congrArg State.seconds (writeDigitsEffect_frame s 4 d.digits); h
@[simp] theorem showDigits_clockValid (s : State) (d : Time) : (showDigits s d).clockValid = s.clockValid :=
  have h := congrArg State.clockValid (writeDigitsEffect_frame s 4 d.digits); h
@[simp] theorem showDigits_alarmTime (s : State) (d : Time) : (showDigits s d).alarmTime = s.alarmTime :=
  have h := congrArg State.alarmTime (writeDigitsEffect_frame s 4 d.digits); h
@[simp] theorem showDigits_alarmEn (s : State) (d : Time) : (showDigits s d).alarmEn = s.alarmEn :=
  have h := congrArg State.alarmEn (writeDigitsEffect_frame s 4 d.digits); h
@[simp] theorem showDigits_ringing (s : State) (d : Time) : (showDigits s d).ringing = s.ringing :=
  have h := congrArg State.ringing (writeDigitsEffect_frame s 4 d.digits); h
@[simp] theorem showDigits_activeDigit (s : State) (d : Time) : (showDigits s d).activeDigit = s.activeDigit :=
  have h := congrArg State.activeDigit (writeDigitsEffect_frame s 4 d.digits); h
@[simp] theorem showDigits_flashFrom (s : State) (d : Time) : (showDigits s d).flashFrom = s.flashFrom :=
  have h := congrArg State.flashFrom (writeDigitsEffect_frame s 4 d.digits); h
@[simp] theorem showDigits_flashTo (s : State) (d : Time) : (showDigits s d).flashTo = s.flashTo :=
  have h := congrArg State.flashTo (writeDigitsEffect_frame s 4 d.digits); h
@[simp] theorem showDigits_flashFactor (s : State) (d : Time) : (showDigits s d).flashFactor = s.flashFactor :=
  have h := congrArg State.flashFactor (writeDigitsEffect_frame s 4 d.digits); h
@[simp] theorem showDigits_flashCount (s : State) (d : Time) : (showDigits s d).flashCount = s.flashCount :=
  have h := congrArg State.flashCount (writeDigitsEffect_frame s 4 d.digits); h
@[simp] theorem showDigits_keyPrev (s : State) (d : Time) : (showDigits s d).keyPrev = s.keyPrev :=
  have h := congrArg State.keyPrev (writeDigitsEffect_frame s 4 d.digits); h
@[simp] theorem showDigits_mode (s : State) (d : Time) : (showDigits s d).mode = s.mode :=
  have h := congrArg State.mode (writeDigitsEffect_frame s 4 d.digits); h
@[simp] theorem showDigits_edit (s : State) (d : Time) : (showDigits s d).edit = s.edit :=
  have h := congrArg State.edit (writeDigitsEffect_frame s 4 d.digits); h
@[simp] theorem showDigits_idleCount (s : State) (d : Time) : (showDigits s d).idleCount = s.idleCount :=
  have h := congrArg State.idleCount (writeDigitsEffect_frame s 4 d.digits); h
@[simp] theorem showDigits_halted (s : State) (d : Time) : (showDigits s d).halted = s.halted :=
  have h := congrArg State.halted (writeDigitsEffect_frame s 4 d.digits); h

/-! ### toggleDotEffect: the fields it leaves alone -/

@[simp] theorem toggleDotEffect_params (s : State) (i : Nat) : (toggleDotEffect s i).params = s.params :=
  have h := congrArg State.params (toggleDotEffect_frame s i); h
@[simp] theorem toggleDotEffect_input (s : State) (i : Nat) : (toggleDotEffect s i).input = s.input :=
  have h := congrArg State.input (toggleDotEffect_frame s i); h
@[simp] theorem toggleDotEffect_trace (s : State) (i : Nat) : (toggleDotEffect s i).trace = s.trace :=
  have h := congrArg State.trace (toggleDotEffect_frame s i); h
@[simp] theorem toggleDotEffect_time (s : State) (i : Nat) : (toggleDotEffect s i).time = s.time :=
  have h := congrArg State.time (toggleDotEffect_frame s i); h
@[simp] theorem toggleDotEffect_tickCount (s : State) (i : Nat) : (toggleDotEffect s i).tickCount = s.tickCount :=
  have h := congrArg State.tickCount (toggleDotEffect_frame s i); h
@[simp] theorem toggleDotEffect_seconds (s : State) (i : Nat) : (toggleDotEffect s i).seconds = s.seconds :=
  have h := congrArg State.seconds (toggleDotEffect_frame s i); h
@[simp] theorem toggleDotEffect_clockValid (s : State) (i : Nat) : (toggleDotEffect s i).clockValid = s.clockValid :=
  have h := congrArg State.clockValid (toggleDotEffect_frame s i); h
@[simp] theorem toggleDotEffect_alarmTime (s : State) (i : Nat) : (toggleDotEffect s i).alarmTime = s.alarmTime :=
  have h := congrArg State.alarmTime (toggleDotEffect_frame s i); h
@[simp] theorem toggleDotEffect_alarmEn (s : State) (i : Nat) : (toggleDotEffect s i).alarmEn = s.alarmEn :=
  have h := congrArg State.alarmEn (toggleDotEffect_frame s i); h
@[simp] theorem toggleDotEffect_ringing (s : State) (i : Nat) : (toggleDotEffect s i).ringing = s.ringing :=
  have h := congrArg State.ringing (toggleDotEffect_frame s i); h
@[simp] theorem toggleDotEffect_activeDigit (s : State) (i : Nat) : (toggleDotEffect s i).activeDigit = s.activeDigit :=
  have h := congrArg State.activeDigit (toggleDotEffect_frame s i); h
@[simp] theorem toggleDotEffect_flashFrom (s : State) (i : Nat) : (toggleDotEffect s i).flashFrom = s.flashFrom :=
  have h := congrArg State.flashFrom (toggleDotEffect_frame s i); h
@[simp] theorem toggleDotEffect_flashTo (s : State) (i : Nat) : (toggleDotEffect s i).flashTo = s.flashTo :=
  have h := congrArg State.flashTo (toggleDotEffect_frame s i); h
@[simp] theorem toggleDotEffect_flashFactor (s : State) (i : Nat) : (toggleDotEffect s i).flashFactor = s.flashFactor :=
  have h := congrArg State.flashFactor (toggleDotEffect_frame s i); h
@[simp] theorem toggleDotEffect_flashCount (s : State) (i : Nat) : (toggleDotEffect s i).flashCount = s.flashCount :=
  have h := congrArg State.flashCount (toggleDotEffect_frame s i); h
@[simp] theorem toggleDotEffect_keyPrev (s : State) (i : Nat) : (toggleDotEffect s i).keyPrev = s.keyPrev :=
  have h := congrArg State.keyPrev (toggleDotEffect_frame s i); h
@[simp] theorem toggleDotEffect_mode (s : State) (i : Nat) : (toggleDotEffect s i).mode = s.mode :=
  have h := congrArg State.mode (toggleDotEffect_frame s i); h
@[simp] theorem toggleDotEffect_edit (s : State) (i : Nat) : (toggleDotEffect s i).edit = s.edit :=
  have h := congrArg State.edit (toggleDotEffect_frame s i); h
@[simp] theorem toggleDotEffect_idleCount (s : State) (i : Nat) : (toggleDotEffect s i).idleCount = s.idleCount :=
  have h := congrArg State.idleCount (toggleDotEffect_frame s i); h
@[simp] theorem toggleDotEffect_halted (s : State) (i : Nat) : (toggleDotEffect s i).halted = s.halted :=
  have h := congrArg State.halted (toggleDotEffect_frame s i); h
@[simp] theorem toggleDotEffect_draws (s : State) (i : Nat) : (toggleDotEffect s i).draws = s.draws :=
  have h := congrArg State.draws (toggleDotEffect_frame s i); h

/-! ### forceDots: the fields it leaves alone -/

@[simp] theorem forceDots_params (s : State) (dot : BitVec 1) (mask : Byte) (k : Nat) : (forceDots s dot mask k).params = s.params :=
  have h := congrArg State.params (forceDots_frame s dot mask k); h
@[simp] theorem forceDots_input (s : State) (dot : BitVec 1) (mask : Byte) (k : Nat) : (forceDots s dot mask k).input = s.input :=
  have h := congrArg State.input (forceDots_frame s dot mask k); h
@[simp] theorem forceDots_trace (s : State) (dot : BitVec 1) (mask : Byte) (k : Nat) : (forceDots s dot mask k).trace = s.trace :=
  have h := congrArg State.trace (forceDots_frame s dot mask k); h
@[simp] theorem forceDots_time (s : State) (dot : BitVec 1) (mask : Byte) (k : Nat) : (forceDots s dot mask k).time = s.time :=
  have h := congrArg State.time (forceDots_frame s dot mask k); h
@[simp] theorem forceDots_tickCount (s : State) (dot : BitVec 1) (mask : Byte) (k : Nat) : (forceDots s dot mask k).tickCount = s.tickCount :=
  have h := congrArg State.tickCount (forceDots_frame s dot mask k); h
@[simp] theorem forceDots_seconds (s : State) (dot : BitVec 1) (mask : Byte) (k : Nat) : (forceDots s dot mask k).seconds = s.seconds :=
  have h := congrArg State.seconds (forceDots_frame s dot mask k); h
@[simp] theorem forceDots_clockValid (s : State) (dot : BitVec 1) (mask : Byte) (k : Nat) : (forceDots s dot mask k).clockValid = s.clockValid :=
  have h := congrArg State.clockValid (forceDots_frame s dot mask k); h
@[simp] theorem forceDots_alarmTime (s : State) (dot : BitVec 1) (mask : Byte) (k : Nat) : (forceDots s dot mask k).alarmTime = s.alarmTime :=
  have h := congrArg State.alarmTime (forceDots_frame s dot mask k); h
@[simp] theorem forceDots_alarmEn (s : State) (dot : BitVec 1) (mask : Byte) (k : Nat) : (forceDots s dot mask k).alarmEn = s.alarmEn :=
  have h := congrArg State.alarmEn (forceDots_frame s dot mask k); h
@[simp] theorem forceDots_ringing (s : State) (dot : BitVec 1) (mask : Byte) (k : Nat) : (forceDots s dot mask k).ringing = s.ringing :=
  have h := congrArg State.ringing (forceDots_frame s dot mask k); h
@[simp] theorem forceDots_activeDigit (s : State) (dot : BitVec 1) (mask : Byte) (k : Nat) : (forceDots s dot mask k).activeDigit = s.activeDigit :=
  have h := congrArg State.activeDigit (forceDots_frame s dot mask k); h
@[simp] theorem forceDots_flashFrom (s : State) (dot : BitVec 1) (mask : Byte) (k : Nat) : (forceDots s dot mask k).flashFrom = s.flashFrom :=
  have h := congrArg State.flashFrom (forceDots_frame s dot mask k); h
@[simp] theorem forceDots_flashTo (s : State) (dot : BitVec 1) (mask : Byte) (k : Nat) : (forceDots s dot mask k).flashTo = s.flashTo :=
  have h := congrArg State.flashTo (forceDots_frame s dot mask k); h
@[simp] theorem forceDots_flashFactor (s : State) (dot : BitVec 1) (mask : Byte) (k : Nat) : (forceDots s dot mask k).flashFactor = s.flashFactor :=
  have h := congrArg State.flashFactor (forceDots_frame s dot mask k); h
@[simp] theorem forceDots_flashCount (s : State) (dot : BitVec 1) (mask : Byte) (k : Nat) : (forceDots s dot mask k).flashCount = s.flashCount :=
  have h := congrArg State.flashCount (forceDots_frame s dot mask k); h
@[simp] theorem forceDots_keyPrev (s : State) (dot : BitVec 1) (mask : Byte) (k : Nat) : (forceDots s dot mask k).keyPrev = s.keyPrev :=
  have h := congrArg State.keyPrev (forceDots_frame s dot mask k); h
@[simp] theorem forceDots_mode (s : State) (dot : BitVec 1) (mask : Byte) (k : Nat) : (forceDots s dot mask k).mode = s.mode :=
  have h := congrArg State.mode (forceDots_frame s dot mask k); h
@[simp] theorem forceDots_edit (s : State) (dot : BitVec 1) (mask : Byte) (k : Nat) : (forceDots s dot mask k).edit = s.edit :=
  have h := congrArg State.edit (forceDots_frame s dot mask k); h
@[simp] theorem forceDots_idleCount (s : State) (dot : BitVec 1) (mask : Byte) (k : Nat) : (forceDots s dot mask k).idleCount = s.idleCount :=
  have h := congrArg State.idleCount (forceDots_frame s dot mask k); h
@[simp] theorem forceDots_halted (s : State) (dot : BitVec 1) (mask : Byte) (k : Nat) : (forceDots s dot mask k).halted = s.halted :=
  have h := congrArg State.halted (forceDots_frame s dot mask k); h
@[simp] theorem forceDots_draws (s : State) (dot : BitVec 1) (mask : Byte) (k : Nat) : (forceDots s dot mask k).draws = s.draws :=
  have h := congrArg State.draws (forceDots_frame s dot mask k); h

/-! ### The buffer, entry by entry -/

@[simp] theorem bufRead_emit (s : State) (e : Event) (j : Nat) : (s.emit e).bufRead j = s.bufRead j := rfl

@[simp] theorem bufRead_respond (s : State) (st : Status) (d : BitVec 16) (j : Nat) :
    (s.respond st d).bufRead j = s.bufRead j := rfl

@[simp] theorem bufRead_setFlashEffect (s : State) (f g : Nat) (x : BitVec 16) (j : Nat) :
    (setFlashEffect s f g x).bufRead j = s.bufRead j := rfl

theorem bufRead_segmentsFor (s : State) (v : Digit) (j : Nat) :
    (segmentsFor s v).2.bufRead j = s.bufRead j := by
  unfold segmentsFor; split <;> rfl

theorem segmentsFor_params (s : State) (v : Digit) : (segmentsFor s v).2.params = s.params := by
  unfold segmentsFor; split <;> rfl

theorem bufRead_writeSegments (s : State) (i : Nat) (v : Digit) (j : Nat) :
    (writeSegments s i v).bufRead j =
      if j = i ∧ i < s.params.digitCount then entryOf (dotOf (s.bufRead i)) (segmentsFor s v).1
      else s.bufRead j := by
  unfold writeSegments
  simp only [bufRead_bufWrite, bufRead_segmentsFor, segmentsFor_params]

/-- The entries no lane writes. -/
theorem bufRead_writeSegmentsFrom_untouched (s : State) (i : Nat) (vs : List Digit) (j : Nat)
    (h : j < i ∨ i + vs.length ≤ j ∨ s.params.digitCount ≤ j) :
    (writeSegmentsFrom s i vs).bufRead j = s.bufRead j := by
  induction vs generalizing s i with
  | nil => rfl
  | cons v vs ih =>
    have hlen : (v :: vs).length = vs.length + 1 := rfl
    unfold writeSegmentsFrom
    rw [ih _ _ (by simp only [writeSegments_params]; omega), bufRead_writeSegments, if_neg (by omega)]

/-- An entry a lane writes keeps its dot, and shows the pattern of a value 0..9. -/
theorem bufRead_writeSegmentsFrom_written (s : State) (i : Nat) (vs : List Digit) (j : Nat) (v : Digit)
    (hi : i ≤ j) (hv : vs[j - i]? = some v) (hN : j < s.params.digitCount) :
    ∃ segments, (writeSegmentsFrom s i vs).bufRead j = entryOf (dotOf (s.bufRead j)) segments ∧
      (v.toNat < 10 → segments = (s.params.segTable[v.toNat]?).getD 0#7) := by
  induction vs generalizing s i with
  | nil => simp at hv
  | cons w vs ih =>
    unfold writeSegmentsFrom
    by_cases hj : j = i
    · subst hj
      simp only [Nat.sub_self, List.getElem?_cons_zero, Option.some.injEq] at hv
      subst hv
      rw [bufRead_writeSegmentsFrom_untouched _ _ _ _ (.inl (Nat.lt_succ_self j)), bufRead_writeSegments,
        if_pos ⟨rfl, hN⟩]
      exact ⟨_, rfl, fun h => by rw [segmentsFor_of_lt _ _ h]⟩
    · have e : j - i = (j - (i + 1)) + 1 := by omega
      rw [e, List.getElem?_cons_succ] at hv
      obtain ⟨segments, h1, h2⟩ := ih (writeSegments s i w) (i + 1) (by omega) hv (by simpa using hN)
      rw [bufRead_writeSegments, if_neg (by omega)] at h1
      exact ⟨segments, h1, by simpa using h2⟩

/-- No value is drawn for values 0..9. -/
theorem writeSegmentsFrom_draws (s : State) (i : Nat) (vs : List Digit) (h : ∀ v ∈ vs, v.toNat < 10) :
    (writeSegmentsFrom s i vs).draws = s.draws := by
  induction vs generalizing s i with
  | nil => rfl
  | cons v vs ih =>
    unfold writeSegmentsFrom
    rw [ih _ _ fun w hw => h w (by simp [hw])]
    unfold writeSegments
    rw [segmentsFor_of_lt _ _ (h v (by simp))]
    simp

theorem writeSegments_bufForm (s : State) (i : Nat) (v : Digit) (h : s.BufForm) :
    (writeSegments s i v).BufForm := by
  unfold writeSegments segmentsFor
  split <;> exact bufWrite_bufForm _ _ _ h

theorem writeSegmentsFrom_bufForm (s : State) (i : Nat) (vs : List Digit) (h : s.BufForm) :
    (writeSegmentsFrom s i vs).BufForm := by
  induction vs generalizing s i with
  | nil => exact h
  | cons v vs ih => exact ih _ _ (writeSegments_bufForm s i v h)

theorem writeDigitsEffect_bufForm (s : State) (cnt : Nat) (vs : List Digit) (h : s.BufForm) :
    (writeDigitsEffect s cnt vs).BufForm :=
  writeSegmentsFrom_bufForm _ _ _ h

theorem showDigits_bufForm (s : State) (d : Time) (h : s.BufForm) : (showDigits s d).BufForm :=
  writeDigitsEffect_bufForm _ _ _ h

theorem toggleDotEffect_bufForm (s : State) (i : Nat) (h : s.BufForm) : (toggleDotEffect s i).BufForm :=
  bufWrite_bufForm _ _ _ h

theorem forceDots_bufForm (s : State) (dot : BitVec 1) (mask : Byte) (k : Nat) (h : s.BufForm) :
    (forceDots s dot mask k).BufForm := by
  induction k with
  | zero => exact h
  | succ k ih =>
    unfold forceDots
    dsimp only
    split
    · exact bufWrite_bufForm _ _ _ ih
    · exact ih

theorem bufRead_toggleDotEffect (s : State) (i j : Nat) :
    (toggleDotEffect s i).bufRead j =
      if j = i ∧ i < s.params.digitCount then s.bufRead j ^^^ 0x80#8 else s.bufRead j := by
  unfold toggleDotEffect
  rw [bufRead_bufWrite, entryOf_not_dotOf]
  split
  · rename_i h; rw [h.1]
  · rfl

theorem bufRead_forceDots (s : State) (dot : BitVec 1) (mask : Byte) (k : Nat) (hk : k ≤ s.params.digitCount)
    (j : Nat) :
    (forceDots s dot mask k).bufRead j =
      if j < k ∧ mask.getLsbD j = true then entryOf dot (segmentsOf (s.bufRead j)) else s.bufRead j := by
  induction k with
  | zero => simp [forceDots]
  | succ k ih =>
    have ih := ih (by omega)
    unfold forceDots
    dsimp only
    by_cases hm : mask.getLsbD k = true
    · rw [if_pos hm]
      unfold forceDot
      rw [bufRead_bufWrite]
      by_cases hj : j = k
      · subst hj
        have hlt : j < (forceDots s dot mask j).params.digitCount := by simp; omega
        rw [if_pos ⟨rfl, hlt⟩, if_pos ⟨by omega, hm⟩, ih, if_neg (by omega)]
      · rw [if_neg (by omega), ih]
        have : j < k + 1 ↔ j < k := by omega
        simp [this]
    · rw [if_neg hm, ih]
      by_cases hj : j = k
      · subst hj; simp [hm]
      · have : j < k + 1 ↔ j < k := by omega
        simp [this]

end Sys2Proof.Machine
end

