-- ==== Sys2Proof/Laws/Bcd.lean ====
section
/-!
SUPPORT. Where the BCD routines have a value (40_clock.md R117), and the validation predicate as the legality of two fields (R116).
-/

namespace Sys2Proof.Machine

theorem bcdInc_eq_none_iff (f : Field) (limits : Limits) :
    bcdInc f limits = none ↔ legalField f limits = false := by
  unfold bcdInc
  split
  · split
    · simp [*]
    · split <;> simp [*]
  · simp_all

theorem bcdDec_eq_none_iff (f : Field) (limits : Limits) :
    bcdDec f limits = none ↔ legalField f limits = false := by
  unfold bcdDec
  split
  · split
    · simp [*]
    · split <;> simp [*]
  · simp_all

/-- A legal field has an increment. -/
theorem bcdInc_some {f : Field} {limits : Limits} (h : legalField f limits = true) :
    ∃ r, bcdInc f limits = some r := by
  rw [← Option.isSome_iff_exists, Option.isSome_iff_ne_none, Ne, bcdInc_eq_none_iff, h]
  simp

/-- A legal field has a decrement. -/
theorem bcdDec_some {f : Field} {limits : Limits} (h : legalField f limits = true) :
    ∃ g, bcdDec f limits = some g := by
  rw [← Option.isSome_iff_exists, Option.isSome_iff_ne_none, Ne, bcdDec_eq_none_iff, h]
  simp

/-- The digits of a valid time are BCD digits, so that showing it draws nothing. -/
theorem digits_lt_of_validTime {t : Time} (h : validTime t = true) : ∀ v ∈ t.digits, v.toNat < 10 := by
  simp only [validTime, decide_eq_true_eq] at h
  intro v hv
  simp only [Time.digits, List.mem_cons, List.not_mem_nil, or_false] at hv
  rcases hv with rfl | rfl | rfl | rfl <;> omega

/-- Showing a valid time changes the buffer alone. -/
theorem showDigits_frame {d : Time} (s : State) (h : validTime d = true) :
    { showDigits s d with buf := s.buf } = s := by
  have hd : (showDigits s d).draws = s.draws :=
    writeSegmentsFrom_draws s 0 _ fun v hv => digits_lt_of_validTime h v (List.mem_of_mem_take hv)
  have := writeDigitsEffect_frame s 4 d.digits
  rw [← hd] at this
  exact this

/-- What an entry reads as after a valid time is shown (R198): the first four entries below `N` show its digits and keep their
dots. -/
theorem bufRead_showDigits {d : Time} (s : State) (h : validTime d = true) (i : Nat) :
    (showDigits s d).bufRead i =
      match d.digits[i]? with
      | some v =>
        if i < s.params.digitCount then
          entryOf (dotOf (s.bufRead i)) ((s.params.segTable[v.toNat]?).getD 0#7)
        else s.bufRead i
      | none => s.bufRead i := by
  unfold showDigits writeDigitsEffect
  cases hv : d.digits[i]? with
  | none =>
    have : d.digits.length ≤ i := List.getElem?_eq_none_iff.1 hv
    refine bufRead_writeSegmentsFrom_untouched _ _ _ _ (.inr (.inl ?_))
    rw [List.length_take]; omega
  | some v =>
    have hl := (List.getElem?_eq_some_iff.1 hv).1
    have h4 : d.digits.length = 4 := rfl
    dsimp only
    split
    · rename_i hN
      obtain ⟨g, e, hg⟩ := bufRead_writeSegmentsFrom_written s 0
        (d.digits.take (min 4 s.params.digitCount)) i v (Nat.zero_le _)
        (by rw [Nat.sub_zero, List.getElem?_take_of_lt (by omega)]; exact hv) hN
      rw [e, hg (digits_lt_of_validTime h v (List.mem_of_getElem? hv))]
    · rename_i hN
      exact bufRead_writeSegmentsFrom_untouched _ _ _ _ (.inr (.inr (by omega)))

@[simp] theorem validTime_zero : validTime Time.zero = true := by decide

@[simp] theorem withHours_minutes (t : Time) (f : Field) : (t.withHours f).minutes = t.minutes := rfl

@[simp] theorem withHours_hours (t : Time) (f : Field) : (t.withHours f).hours = f := rfl

@[simp] theorem withMinutes_hours (t : Time) (f : Field) : (t.withMinutes f).hours = t.hours := rfl

@[simp] theorem withMinutes_minutes (t : Time) (f : Field) : (t.withMinutes f).minutes = f := rfl

end Sys2Proof.Machine
end

