-- ==== Sys2Proof/Laws/Clock.lean ====
section
/-!
SUPPORT. What an effect without a response can do to the state: `State.Quiet`, closed under composition, and proved once for each
effect of the clock and the display that the mode machine uses (42_keypad_mode.md R197).
-/

namespace Sys2Proof.Machine

/-- What no effect without a response does: change a parameter, the halt bit or the input, clear `CLOCK_VALID`, spoil the buffer,
or emit anything but ALARM_NOTIFY(0). -/
structure State.Quiet (s t : State) : Prop where
  params : t.params = s.params
  halted : t.halted = s.halted
  input : t.input = s.input
  trace : ∃ n, t.trace = s.trace ++ List.replicate n (.alarmNotify false)
  valid : s.clockValid = true → t.clockValid = true
  form : s.BufForm → t.BufForm

theorem State.Quiet.refl (s : State) : s.Quiet s :=
  ⟨rfl, rfl, rfl, ⟨0, by simp⟩, id, id⟩

theorem State.Quiet.trans {s t u : State} (h : s.Quiet t) (h' : t.Quiet u) : s.Quiet u := by
  obtain ⟨n, hn⟩ := h.trace
  obtain ⟨m, hm⟩ := h'.trace
  exact ⟨h'.params.trans h.params, h'.halted.trans h.halted, h'.input.trans h.input,
    ⟨n + m, by rw [hm, hn, List.append_assoc, List.replicate_append_replicate]⟩,
    fun hv => h'.valid (h.valid hv), fun hf => h'.form (h.form hf)⟩

/-- An update of registers outside those `Quiet` speaks of. -/
theorem quiet_of_eq {s t : State} (h1 : t.params = s.params) (h2 : t.halted = s.halted)
    (h3 : t.input = s.input) (h4 : t.trace = s.trace) (h5 : t.clockValid = s.clockValid)
    (h6 : t.buf = s.buf) : s.Quiet t :=
  ⟨h1, h2, h3, ⟨0, by simp [h4]⟩, fun h => h5.trans h, fun h => by
    unfold State.BufForm at h ⊢; rw [h1, h6]; exact h⟩

theorem showDigits_quiet (s : State) (d : Time) : s.Quiet (showDigits s d) :=
  ⟨by simp, by simp, by simp, ⟨0, by simp⟩, by simp, showDigits_bufForm s d⟩

theorem writeDigitsEffect_quiet (s : State) (cnt : Nat) (vs : List Digit) :
    s.Quiet (writeDigitsEffect s cnt vs) :=
  ⟨by simp, by simp, by simp, ⟨0, by simp⟩, by simp, writeDigitsEffect_bufForm s cnt vs⟩

theorem toggleDotEffect_quiet (s : State) (i : Nat) : s.Quiet (toggleDotEffect s i) :=
  ⟨by simp, by simp, by simp, ⟨0, by simp⟩, by simp, toggleDotEffect_bufForm s i⟩

theorem forceDots_quiet (s : State) (dot : BitVec 1) (mask : Byte) (k : Nat) :
    s.Quiet (forceDots s dot mask k) :=
  ⟨by simp, by simp, by simp, ⟨0, by simp⟩, by simp, forceDots_bufForm s dot mask k⟩

theorem setFlashEffect_quiet (s : State) (f g : Nat) (x : BitVec 16) : s.Quiet (setFlashEffect s f g x) :=
  quiet_of_eq rfl rfl rfl rfl rfl rfl

theorem toggleAlarmEn_quiet (s : State) : s.Quiet s.toggleAlarmEn := quiet_of_eq rfl rfl rfl rfl rfl rfl

theorem enableAlarm_quiet (s : State) : s.Quiet s.enableAlarm := quiet_of_eq rfl rfl rfl rfl rfl rfl

theorem stopRing_quiet (s : State) : s.Quiet s.stopRing := ⟨rfl, rfl, rfl, ⟨1, rfl⟩, id, id⟩

theorem cancelAlarmEffect_quiet (s : State) : s.Quiet (cancelAlarmEffect s) := by
  unfold cancelAlarmEffect
  split
  · exact stopRing_quiet s
  · exact .refl s

theorem setTimeEffect_quiet (s : State) (cnt : BitVec 4) (t : Time) : s.Quiet (setTimeEffect s cnt t).2 := by
  unfold setTimeEffect
  split
  · exact ⟨rfl, rfl, rfl, ⟨0, by simp⟩, fun _ => rfl, id⟩
  · exact .refl s

theorem setAlarmEffect_quiet (s : State) (t : Time) : s.Quiet (setAlarmEffect s t).2 := by
  unfold setAlarmEffect
  split
  · exact quiet_of_eq rfl rfl rfl rfl rfl rfl
  · exact .refl s

/-- What SNOOZE can do (R135): nothing while no alarm rings, or move the alarm and stop the ring. -/
theorem snoozeEffect_cases {s : State} {minutes : BitVec 8} {r : Status × State}
    (h : snoozeEffect s minutes = some r) :
    (s.ringing = false ∧ r = (.notReady, s)) ∨
      (s.ringing = true ∧ ∃ t, addMinutes minutes.toNat s.alarmTime = some t ∧
        r = (.ok, { s with alarmTime := t }.stopRing)) := by
  unfold snoozeEffect at h
  split at h
  · rename_i hr
    split at h
    · cases h
    · rename_i t ht
      exact .inr ⟨hr, t, ht, (Option.some.inj h).symm⟩
  · rename_i hr
    exact .inl ⟨by simpa using hr, (Option.some.inj h).symm⟩

theorem snoozeEffect_quiet {s : State} {minutes : BitVec 8} {r : Status × State}
    (h : snoozeEffect s minutes = some r) : s.Quiet r.2 := by
  rcases snoozeEffect_cases h with ⟨-, rfl⟩ | ⟨-, t, -, rfl⟩
  · exact .refl s
  · exact ⟨rfl, rfl, rfl, ⟨1, rfl⟩, id, id⟩

/-- What a minute rollover does (R121): the time steps, the alarm is checked against it, and the display follows. -/
theorem minuteRollover_eq_some {s t : State} (h : minuteRollover s = some t) :
    ∃ u, timeInc1 s.time = some u ∧ t = minuteDisplayUpdate (checkAlarm { s with time := u }) := by
  unfold minuteRollover at h
  split at h
  · cases h
  · rename_i u hu
    exact ⟨u, hu, (Option.some.inj h).symm⟩

/-- The cases of a tick (R120): no second elapsed; a second within the minute; a minute rollover. -/
theorem tickEffect_cases {s t : State} (h : tickEffect s = some t) :
    ((countTick s).tickCount ≠ 0#16 ∧ t = halfSecondIfDue (countTick s)) ∨
      ((countTick s).tickCount = 0#16 ∧ s.seconds ≠ 59#6 ∧
        t = halfSecondIfDue { countTick s with seconds := s.seconds + 1#6 }) ∨
      ((countTick s).tickCount = 0#16 ∧ s.seconds = 59#6 ∧ ∃ u, timeInc1 s.time = some u ∧
        t = halfSecondIfDue
          (minuteDisplayUpdate (checkAlarm { countTick s with seconds := 0#6, time := u }))) := by
  unfold tickEffect at h
  dsimp only at h
  split at h
  · rename_i h0
    obtain ⟨v, hv, rfl⟩ := Option.map_eq_some_iff.1 h
    unfold secondElapsed at hv
    split at hv
    · rename_i hs
      obtain ⟨u, hu, rfl⟩ := minuteRollover_eq_some hv
      exact .inr (.inr ⟨h0, by simpa using hs, u, hu, rfl⟩)
    · rename_i hs
      rw [← Option.some.inj hv]
      exact .inr (.inl ⟨h0, by simpa using hs, rfl⟩)
  · rename_i h0
    exact .inl ⟨h0, (Option.some.inj h).symm⟩

theorem halfSecondIfDue_frame (s : State) : { halfSecondIfDue s with buf := s.buf } = s := by
  unfold halfSecondIfDue
  split
  · exact toggleDotEffect_frame s _
  · rfl

@[simp] theorem halfSecondIfDue_params (s : State) : (halfSecondIfDue s).params = s.params :=
  have h := congrArg State.params (halfSecondIfDue_frame s); h
@[simp] theorem halfSecondIfDue_input (s : State) : (halfSecondIfDue s).input = s.input :=
  have h := congrArg State.input (halfSecondIfDue_frame s); h
@[simp] theorem halfSecondIfDue_trace (s : State) : (halfSecondIfDue s).trace = s.trace :=
  have h := congrArg State.trace (halfSecondIfDue_frame s); h
@[simp] theorem halfSecondIfDue_time (s : State) : (halfSecondIfDue s).time = s.time :=
  have h := congrArg State.time (halfSecondIfDue_frame s); h
@[simp] theorem halfSecondIfDue_tickCount (s : State) : (halfSecondIfDue s).tickCount = s.tickCount :=
  have h := congrArg State.tickCount (halfSecondIfDue_frame s); h
@[simp] theorem halfSecondIfDue_seconds (s : State) : (halfSecondIfDue s).seconds = s.seconds :=
  have h := congrArg State.seconds (halfSecondIfDue_frame s); h
@[simp] theorem halfSecondIfDue_clockValid (s : State) : (halfSecondIfDue s).clockValid = s.clockValid :=
  have h := congrArg State.clockValid (halfSecondIfDue_frame s); h
@[simp] theorem halfSecondIfDue_alarmTime (s : State) : (halfSecondIfDue s).alarmTime = s.alarmTime :=
  have h := congrArg State.alarmTime (halfSecondIfDue_frame s); h
@[simp] theorem halfSecondIfDue_alarmEn (s : State) : (halfSecondIfDue s).alarmEn = s.alarmEn :=
  have h := congrArg State.alarmEn (halfSecondIfDue_frame s); h
@[simp] theorem halfSecondIfDue_ringing (s : State) : (halfSecondIfDue s).ringing = s.ringing :=
  have h := congrArg State.ringing (halfSecondIfDue_frame s); h
@[simp] theorem halfSecondIfDue_activeDigit (s : State) : (halfSecondIfDue s).activeDigit = s.activeDigit :=
  have h := congrArg State.activeDigit (halfSecondIfDue_frame s); h
@[simp] theorem halfSecondIfDue_flashFrom (s : State) : (halfSecondIfDue s).flashFrom = s.flashFrom :=
  have h := congrArg State.flashFrom (halfSecondIfDue_frame s); h
@[simp] theorem halfSecondIfDue_flashTo (s : State) : (halfSecondIfDue s).flashTo = s.flashTo :=
  have h := congrArg State.flashTo (halfSecondIfDue_frame s); h
@[simp] theorem halfSecondIfDue_flashFactor (s : State) : (halfSecondIfDue s).flashFactor = s.flashFactor :=
  have h := congrArg State.flashFactor (halfSecondIfDue_frame s); h
@[simp] theorem halfSecondIfDue_flashCount (s : State) : (halfSecondIfDue s).flashCount = s.flashCount :=
  have h := congrArg State.flashCount (halfSecondIfDue_frame s); h
@[simp] theorem halfSecondIfDue_keyPrev (s : State) : (halfSecondIfDue s).keyPrev = s.keyPrev :=
  have h := congrArg State.keyPrev (halfSecondIfDue_frame s); h
@[simp] theorem halfSecondIfDue_mode (s : State) : (halfSecondIfDue s).mode = s.mode :=
  have h := congrArg State.mode (halfSecondIfDue_frame s); h
@[simp] theorem halfSecondIfDue_edit (s : State) : (halfSecondIfDue s).edit = s.edit :=
  have h := congrArg State.edit (halfSecondIfDue_frame s); h
@[simp] theorem halfSecondIfDue_idleCount (s : State) : (halfSecondIfDue s).idleCount = s.idleCount :=
  have h := congrArg State.idleCount (halfSecondIfDue_frame s); h
@[simp] theorem halfSecondIfDue_halted (s : State) : (halfSecondIfDue s).halted = s.halted :=
  have h := congrArg State.halted (halfSecondIfDue_frame s); h
@[simp] theorem halfSecondIfDue_draws (s : State) : (halfSecondIfDue s).draws = s.draws :=
  have h := congrArg State.draws (halfSecondIfDue_frame s); h

theorem halfSecondIfDue_quiet (s : State) : s.Quiet (halfSecondIfDue s) := by
  unfold halfSecondIfDue
  split
  · exact toggleDotEffect_quiet s _
  · exact .refl s

theorem minuteDisplayUpdate_frame (s : State) :
    { minuteDisplayUpdate s with buf := s.buf, draws := s.draws } = s := by
  unfold minuteDisplayUpdate
  split
  · exact writeDigitsEffect_frame s 4 s.time.digits
  · rfl

@[simp] theorem minuteDisplayUpdate_params (s : State) : (minuteDisplayUpdate s).params = s.params :=
  have h := congrArg State.params (minuteDisplayUpdate_frame s); h
@[simp] theorem minuteDisplayUpdate_input (s : State) : (minuteDisplayUpdate s).input = s.input :=
  have h := congrArg State.input (minuteDisplayUpdate_frame s); h
@[simp] theorem minuteDisplayUpdate_trace (s : State) : (minuteDisplayUpdate s).trace = s.trace :=
  have h := congrArg State.trace (minuteDisplayUpdate_frame s); h
@[simp] theorem minuteDisplayUpdate_time (s : State) : (minuteDisplayUpdate s).time = s.time :=
  have h := congrArg State.time (minuteDisplayUpdate_frame s); h
@[simp] theorem minuteDisplayUpdate_tickCount (s : State) : (minuteDisplayUpdate s).tickCount = s.tickCount :=
  have h := congrArg State.tickCount (minuteDisplayUpdate_frame s); h
@[simp] theorem minuteDisplayUpdate_seconds (s : State) : (minuteDisplayUpdate s).seconds = s.seconds :=
  have h := congrArg State.seconds (minuteDisplayUpdate_frame s); h
@[simp] theorem minuteDisplayUpdate_clockValid (s : State) : (minuteDisplayUpdate s).clockValid = s.clockValid :=
  have h := congrArg State.clockValid (minuteDisplayUpdate_frame s); h
@[simp] theorem minuteDisplayUpdate_alarmTime (s : State) : (minuteDisplayUpdate s).alarmTime = s.alarmTime :=
  have h := congrArg State.alarmTime (minuteDisplayUpdate_frame s); h
@[simp] theorem minuteDisplayUpdate_alarmEn (s : State) : (minuteDisplayUpdate s).alarmEn = s.alarmEn :=
  have h := congrArg State.alarmEn (minuteDisplayUpdate_frame s); h
@[simp] theorem minuteDisplayUpdate_ringing (s : State) : (minuteDisplayUpdate s).ringing = s.ringing :=
  have h := congrArg State.ringing (minuteDisplayUpdate_frame s); h
@[simp] theorem minuteDisplayUpdate_activeDigit (s : State) : (minuteDisplayUpdate s).activeDigit = s.activeDigit :=
  have h := congrArg State.activeDigit (minuteDisplayUpdate_frame s); h
@[simp] theorem minuteDisplayUpdate_flashFrom (s : State) : (minuteDisplayUpdate s).flashFrom = s.flashFrom :=
  have h := congrArg State.flashFrom (minuteDisplayUpdate_frame s); h
@[simp] theorem minuteDisplayUpdate_flashTo (s : State) : (minuteDisplayUpdate s).flashTo = s.flashTo :=
  have h := congrArg State.flashTo (minuteDisplayUpdate_frame s); h
@[simp] theorem minuteDisplayUpdate_flashFactor (s : State) : (minuteDisplayUpdate s).flashFactor = s.flashFactor :=
  have h := congrArg State.flashFactor (minuteDisplayUpdate_frame s); h
@[simp] theorem minuteDisplayUpdate_flashCount (s : State) : (minuteDisplayUpdate s).flashCount = s.flashCount :=
  have h := congrArg State.flashCount (minuteDisplayUpdate_frame s); h
@[simp] theorem minuteDisplayUpdate_keyPrev (s : State) : (minuteDisplayUpdate s).keyPrev = s.keyPrev :=
  have h := congrArg State.keyPrev (minuteDisplayUpdate_frame s); h
@[simp] theorem minuteDisplayUpdate_mode (s : State) : (minuteDisplayUpdate s).mode = s.mode :=
  have h := congrArg State.mode (minuteDisplayUpdate_frame s); h
@[simp] theorem minuteDisplayUpdate_edit (s : State) : (minuteDisplayUpdate s).edit = s.edit :=
  have h := congrArg State.edit (minuteDisplayUpdate_frame s); h
@[simp] theorem minuteDisplayUpdate_idleCount (s : State) : (minuteDisplayUpdate s).idleCount = s.idleCount :=
  have h := congrArg State.idleCount (minuteDisplayUpdate_frame s); h
@[simp] theorem minuteDisplayUpdate_halted (s : State) : (minuteDisplayUpdate s).halted = s.halted :=
  have h := congrArg State.halted (minuteDisplayUpdate_frame s); h

theorem minuteDisplayUpdate_quiet (s : State) : s.Quiet (minuteDisplayUpdate s) := by
  unfold minuteDisplayUpdate
  split
  · exact showDigits_quiet s _
  · exact .refl s

/-- What the alarm check does (R123): it rings, or leaves the state as it is. -/
theorem checkAlarm_eq (s : State) :
    checkAlarm s =
      { s with
        ringing := s.ringing || (s.alarmEn && (s.time = s.alarmTime : Bool))
        trace := s.trace ++ if s.alarmEn = true ∧ s.time = s.alarmTime then [.alarmNotify true] else [] } := by
  unfold checkAlarm
  by_cases h : s.alarmEn = true ∧ s.time = s.alarmTime
  · rw [if_pos h, if_pos h]
    simp [State.startRing, State.emit, h.1, h.2]
  · rw [if_neg h, if_neg h]
    have : (s.alarmEn && (s.time = s.alarmTime : Bool)) = false := by
      rw [Bool.and_eq_false_iff]
      by_cases he : s.alarmEn = true
      · exact .inr (by simpa using fun ht => h ⟨he, ht⟩)
      · exact .inl (by simpa using he)
    simp [this]

end Sys2Proof.Machine
end

