-- ==== Sys2Proof/Laws/Encoding.lean ====
section
/-!
SUPPORT. A field of a word as a number, and a masked comparison as a comparison of fields: what the statements about the encoding
rest on.
-/

namespace Sys2Proof

theorem bits_toNat (w : Word) (lo len : Nat) : (bits w lo len).toNat = w.toNat / 2 ^ lo % 2 ^ len := by
  simp [bits, BitVec.extractLsb'_toNat, Nat.shiftRight_eq_div_pow]

/-- The field a number holds, read from its word. -/
theorem bits_ofNat (n lo len : Nat) (v : BitVec len) (hn : n < 2 ^ 64) (h : n / 2 ^ lo % 2 ^ len = v.toNat) :
    bits (BitVec.ofNat 64 n) lo len = v := by
  apply BitVec.eq_of_toNat_eq
  rw [bits_toNat, BitVec.toNat_ofNat, Nat.mod_eq_of_lt hn, h]

theorem bits_getLsbD (w : Word) (lo len i : Nat) (h : i < len) :
    (bits w lo len).getLsbD i = w.getLsbD (lo + i) := by
  simp [bits, h]

theorem bits_eq_iff (w : Word) (lo len : Nat) (v : BitVec len) :
    bits w lo len = v ↔ ∀ i : Fin len, w.getLsbD (lo + i) = v.getLsbD i := by
  constructor
  · rintro rfl i
    exact (bits_getLsbD w lo len i i.isLt).symm
  · intro h
    refine BitVec.eq_of_getLsbD_eq fun i hi => ?_
    rw [bits_getLsbD w lo len i hi, h ⟨i, hi⟩]

/-- A masked comparison says that the bits under the mask agree. -/
theorem and_eq_iff (w m v : Word) (hv : v &&& m = v) :
    w &&& m = v ↔ ∀ i : Fin 64, m.getLsbD i = true → w.getLsbD i = v.getLsbD i := by
  constructor
  · intro h i hi
    have := congrArg (fun x => x.getLsbD i) h
    simp only [BitVec.getLsbD_and, hi, Bool.and_true] at this
    exact this
  · intro h
    refine BitVec.eq_of_getLsbD_eq fun i hi => ?_
    rw [BitVec.getLsbD_and]
    by_cases hm : m.getLsbD i = true
    · rw [h ⟨i, hi⟩ hm, hm, Bool.and_true]
    · have := congrArg (fun x => x.getLsbD i) hv
      simp only [BitVec.getLsbD_and] at this
      rw [← this]
      simp [hm]

/-- A masked comparison as a comparison of the fields (lowest bit, length) the mask is made of. -/
theorem and_eq_iff_fields (w m v : Word) (hv : v &&& m = v) (fields : List (Nat × Nat))
    (hm : ∀ i : Fin 64, m.getLsbD i = true ↔ ∃ f ∈ fields, f.1 ≤ i.val ∧ i.val < f.1 + f.2)
    (hf : ∀ f ∈ fields, f.1 + f.2 ≤ 64) :
    w &&& m = v ↔ ∀ f ∈ fields, bits w f.1 f.2 = bits v f.1 f.2 := by
  rw [and_eq_iff w m v hv]
  constructor
  · intro h f hmem
    rw [bits_eq_iff]
    intro i
    have hi := i.isLt
    have hle := hf f hmem
    rw [h ⟨f.1 + i, by omega⟩ ((hm _).2 ⟨f, hmem, by simp⟩), bits_getLsbD v f.1 f.2 i hi]
  · intro h i hi
    obtain ⟨f, hmem, hle, hlt⟩ := (hm i).1 hi
    have e : f.1 + (i.val - f.1) = i.val := by omega
    have := (bits_eq_iff _ _ _ _).1 (h f hmem) ⟨i - f.1, by omega⟩
    rw [bits_getLsbD v f.1 f.2 _ (by omega)] at this
    simpa only [e] using this

@[simp] theorem edgeOfBit_bitOfEdge (e : Edge) : edgeOfBit (bitOfEdge e) = e := by cases e <;> rfl

@[simp] theorem bitOfEdge_edgeOfBit (b : BitVec 1) : bitOfEdge (edgeOfBit b) = b := by
  revert b; decide

end Sys2Proof
end

