-- ==== Sys2Proof/Laws/Keypad.lean ====
section
/-!
SUPPORT. What the mode machine can do (42_keypad_mode.md): every handler, event and poll is `Quiet`; where it moves the mode; and
where it has a value.
-/

namespace Sys2Proof.Machine

theorem leaveEdit_quiet (s : State) : s.Quiet (leaveEdit s) := by
  unfold leaveEdit
  split
  · exact State.Quiet.trans (t := { flashClear s with mode := .showingTime })
      (quiet_of_eq rfl rfl rfl rfl rfl rfl) (showDigits_quiet _ _)
  · exact State.Quiet.trans (t := { flashClear s with mode := .unconfigured })
      (quiet_of_eq rfl rfl rfl rfl rfl rfl) (showDigits_quiet _ _)

theorem editAndShow_quiet (s : State) (t : Time) : s.Quiet (editAndShow s t) :=
  State.Quiet.trans (t := { s with edit := t }) (quiet_of_eq rfl rfl rfl rfl rfl rfl) (showDigits_quiet _ _)

/-- What the cells of the table can do: each is one of the helpers below it. -/
theorem handle_cases {s t : State} {m : Mode} {k : Key} (h : handle s m k = some t) :
    t = s ∨
      (∃ mode seed, startEdit s mode seed = some t ∧ mode ≠ .showingTime ∧ mode ≠ .unconfigured) ∨
      (m = .showingTime ∧ acceptShowing s = some t) ∨
      (m = .showingTime ∧ cancelShowing s = some t) ∨
      (∃ d, t = editAndShow s d) ∨
      (∃ mode, toHours s mode = some t ∧ mode ≠ .showingTime ∧ mode ≠ .unconfigured) ∨
      (∃ mode, toMinutes s mode = some t ∧ mode ≠ .showingTime ∧ mode ≠ .unconfigured) ∨
      (m.isEdit = true ∧ discardEdit s = some t) ∨
      (m.isEdit = true ∧ commitTime s = some t) ∨
      (m.isEdit = true ∧ commitAlarm s = some t) := by
  have edited : ∀ {α : Type} {o : Option α} {f : α → Time}, (o.map fun r => editAndShow s (f r)) = some t →
      ∃ d, t = editAndShow s d := fun h => by
    obtain ⟨r, -, rfl⟩ := Option.map_eq_some_iff.1 h
    exact ⟨_, rfl⟩
  cases m <;> cases k <;> simp only [handle, noTransition, Option.some.injEq] at h
  all_goals first
    | exact .inl h.symm
    | exact .inr (.inl ⟨_, _, h, by decide, by decide⟩)
    | exact .inr (.inr (.inl ⟨rfl, h⟩))
    | exact .inr (.inr (.inr (.inl ⟨rfl, h⟩)))
    | exact .inr (.inr (.inr (.inr (.inl (edited h)))))
    | exact .inr (.inr (.inr (.inr (.inr (.inl ⟨_, h, by decide, by decide⟩)))))
    | exact .inr (.inr (.inr (.inr (.inr (.inr (.inl ⟨_, h, by decide, by decide⟩))))))
    | exact .inr (.inr (.inr (.inr (.inr (.inr (.inr (.inl ⟨rfl, h⟩)))))))
    | exact .inr (.inr (.inr (.inr (.inr (.inr (.inr (.inr (.inl ⟨rfl, h⟩))))))))
    | exact .inr (.inr (.inr (.inr (.inr (.inr (.inr (.inr (.inr ⟨rfl, h⟩))))))))

/-- What Accept in ShowingTime can do (R206). -/
theorem acceptShowing_cases {s t : State} (h : acceptShowing s = some t) :
    (∃ r, snoozeEffect s s.params.snoozeMinutes = some r ∧ t = r.2) ∨ t = s ∨ t = s.toggleAlarmEn := by
  unfold acceptShowing at h
  split at h
  · obtain ⟨r, hr, rfl⟩ := Option.map_eq_some_iff.1 h
    exact .inl ⟨r, hr, rfl⟩
  · split at h
    · exact .inr (.inl (Option.some.inj h).symm)
    · exact .inr (.inr (Option.some.inj h).symm)

/-- What Cancel in ShowingTime can do (R207). -/
theorem cancelShowing_cases {s t : State} (h : cancelShowing s = some t) :
    t = cancelAlarmEffect s ∨ t = s ∨ t = s.toggleAlarmEn := by
  unfold cancelShowing at h
  split at h
  · exact .inl (Option.some.inj h).symm
  · split at h
    · exact .inr (.inr (Option.some.inj h).symm)
    · exact .inr (.inl (Option.some.inj h).symm)

/-- What a time commit can do (R215, R216). -/
theorem commitTime_cases {s t : State} (h : commitTime s = some t) :
    (validTime s.edit = true ∧
        t = leaveEdit { s with time := s.edit, seconds := 0#6, clockValid := true }) ∨
      (validTime s.edit = false ∧ t = s) := by
  unfold commitTime setTimeEffect at h
  cases hv : validTime s.edit
  · simp only [hv, Bool.false_eq_true, and_false, if_false, Option.some.injEq] at h
    exact .inr ⟨rfl, h.symm⟩
  · simp only [hv, and_self, if_true, Option.some.injEq] at h
    exact .inl ⟨rfl, h.symm⟩

/-- What an alarm commit can do (R219, R216). -/
theorem commitAlarm_cases {s t : State} (h : commitAlarm s = some t) :
    (validTime s.edit = true ∧ t = leaveEdit { s with alarmTime := s.edit, alarmEn := true }) ∨
      (validTime s.edit = false ∧ t = s) := by
  unfold commitAlarm setAlarmEffect at h
  cases hv : validTime s.edit
  · simp only [hv, Bool.false_eq_true, if_false, Option.some.injEq] at h
    exact .inr ⟨rfl, h.symm⟩
  · simp only [hv, if_true, Option.some.injEq] at h
    exact .inl ⟨rfl, h.symm⟩

@[simp] theorem leaveEdit_clockValid (s : State) : (leaveEdit s).clockValid = s.clockValid := by
  unfold leaveEdit flashClear showTime showZero; split <;> simp

@[simp] theorem leaveEdit_mode (s : State) :
    (leaveEdit s).mode = if s.clockValid then .showingTime else .unconfigured := by
  unfold leaveEdit flashClear showTime showZero; split <;> simp

/-- Every cell is quiet. -/
theorem handle_quiet {s t : State} {m : Mode} {k : Key} (h : handle s m k = some t) : s.Quiet t := by
  rcases handle_cases h with rfl | ⟨mode, seed, h, -⟩ | ⟨-, h⟩ | ⟨-, h⟩ | ⟨d, rfl⟩ | ⟨mode, h, -⟩ |
    ⟨mode, h, -⟩ | ⟨-, h⟩ | ⟨-, h⟩ | ⟨-, h⟩
  · exact .refl _
  · rw [← Option.some.inj h]
    exact State.Quiet.trans (t := showEdit { s with edit := seed, mode := mode })
      (State.Quiet.trans (t := { s with edit := seed, mode := mode })
        (quiet_of_eq rfl rfl rfl rfl rfl rfl) (showDigits_quiet _ _))
      (setFlashEffect_quiet _ _ _ _)
  · rcases acceptShowing_cases h with ⟨r, hr, rfl⟩ | rfl | rfl
    · exact snoozeEffect_quiet hr
    · exact .refl _
    · exact toggleAlarmEn_quiet s
  · rcases cancelShowing_cases h with rfl | rfl | rfl
    · exact cancelAlarmEffect_quiet s
    · exact .refl _
    · exact toggleAlarmEn_quiet s
  · exact editAndShow_quiet s d
  · rw [← Option.some.inj h]
    exact quiet_of_eq rfl rfl rfl rfl rfl rfl
  · rw [← Option.some.inj h]
    exact quiet_of_eq rfl rfl rfl rfl rfl rfl
  · rw [← Option.some.inj h]
    exact leaveEdit_quiet s
  · rcases commitTime_cases h with ⟨-, rfl⟩ | ⟨-, rfl⟩
    · exact State.Quiet.trans
        (t := { s with time := s.edit, seconds := 0#6, clockValid := true })
        ⟨rfl, rfl, rfl, ⟨0, by simp⟩, fun _ => rfl, id⟩ (leaveEdit_quiet _)
    · exact .refl _
  · rcases commitAlarm_cases h with ⟨-, rfl⟩ | ⟨-, rfl⟩
    · exact State.Quiet.trans (t := { s with alarmTime := s.edit, alarmEn := true })
        (quiet_of_eq rfl rfl rfl rfl rfl rfl) (leaveEdit_quiet _)
    · exact .refl _

/-- What the delivery of events can do to the mode, beside being quiet: lead to ShowingTime only from it or with a time set (R221),
and to Unconfigured only from it once a time is set (R220). -/
structure State.Moves (s t : State) : Prop where
  quiet : s.Quiet t
  showing : t.mode = .showingTime → s.mode = .showingTime ∨ t.clockValid = true
  unconfigured : s.clockValid = true → t.mode = .unconfigured → s.mode = .unconfigured

theorem State.Moves.of_mode_eq {s t : State} (h : s.Quiet t) (hm : t.mode = s.mode) : s.Moves t :=
  ⟨h, fun e => .inl (hm ▸ e), fun _ e => hm ▸ e⟩

theorem State.Moves.of_mode_ne {s t : State} (h : s.Quiet t) (h1 : t.mode ≠ .showingTime)
    (h2 : t.mode ≠ .unconfigured) : s.Moves t :=
  ⟨h, fun e => absurd e h1, fun _ e => absurd e h2⟩

theorem State.Moves.refl (s : State) : s.Moves s := .of_mode_eq (.refl s) rfl

theorem State.Moves.trans {s t u : State} (h : s.Moves t) (h' : t.Moves u) : s.Moves u := by
  refine ⟨h.quiet.trans h'.quiet, fun e => ?_, fun hv e => ?_⟩
  · rcases h'.showing e with e' | e'
    · exact (h.showing e').imp id h'.quiet.valid
    · exact .inr e'
  · exact h.unconfigured hv (h'.unconfigured (h.quiet.valid hv) e)

theorem leaveEdit_moves {s u : State} (h : s.Quiet u) : s.Moves (leaveEdit u) := by
  refine ⟨h.trans (leaveEdit_quiet u), ?_, ?_⟩
  · cases hv : u.clockValid <;> simp [hv]
  · intro hs
    simp [h.valid hs]

/-- Every cell moves the mode so. -/
theorem handle_moves {s t : State} {k : Key} (h : handle s s.mode k = some t) : s.Moves t := by
  have hq := handle_quiet h
  rcases handle_cases h with rfl | ⟨mode, seed, h, h1, h2⟩ | ⟨-, h⟩ | ⟨-, h⟩ | ⟨d, rfl⟩ | ⟨mode, h, h1, h2⟩ |
    ⟨mode, h, h1, h2⟩ | ⟨-, h⟩ | ⟨-, h⟩ | ⟨-, h⟩
  · exact .refl _
  · rw [← Option.some.inj h] at hq ⊢
    exact .of_mode_ne hq (by simpa [flashMinutes, showEdit] using h1)
      (by simpa [flashMinutes, showEdit] using h2)
  · refine .of_mode_eq hq ?_
    rcases acceptShowing_cases h with ⟨r, hr, rfl⟩ | rfl | rfl
    · rcases snoozeEffect_cases hr with ⟨-, rfl⟩ | ⟨-, u, -, rfl⟩ <;> rfl
    · rfl
    · rfl
  · refine .of_mode_eq hq ?_
    rcases cancelShowing_cases h with rfl | rfl | rfl
    · unfold cancelAlarmEffect
      split <;> rfl
    · rfl
    · rfl
  · exact .of_mode_eq hq (by simp [editAndShow, showEdit])
  · rw [← Option.some.inj h] at hq ⊢
    exact .of_mode_ne hq h1 h2
  · rw [← Option.some.inj h] at hq ⊢
    exact .of_mode_ne hq h1 h2
  · rw [← Option.some.inj h]
    exact leaveEdit_moves (.refl s)
  · rcases commitTime_cases h with ⟨-, rfl⟩ | ⟨-, rfl⟩
    · exact leaveEdit_moves ⟨rfl, rfl, rfl, ⟨0, by simp⟩, fun _ => rfl, id⟩
    · exact .refl _
  · rcases commitAlarm_cases h with ⟨-, rfl⟩ | ⟨-, rfl⟩
    · exact leaveEdit_moves (quiet_of_eq rfl rfl rfl rfl rfl rfl)
    · exact .refl _

theorem restartIdle_quiet (s : State) : s.Quiet (restartIdle s) := by
  unfold restartIdle
  split
  · exact quiet_of_eq rfl rfl rfl rfl rfl rfl
  · exact .refl s

@[simp] theorem restartIdle_mode (s : State) : (restartIdle s).mode = s.mode := by
  unfold restartIdle; split <;> rfl

@[simp] theorem restartIdle_clockValid (s : State) : (restartIdle s).clockValid = s.clockValid := by
  unfold restartIdle; split <;> rfl

theorem restartIdle_eq (s : State) :
    restartIdle s = { s with idleCount := if s.mode.isEdit then 0#16 else s.idleCount } := by
  unfold restartIdle; split <;> simp [*]

theorem restartIdle_moves (s : State) : s.Moves (restartIdle s) := .of_mode_eq (restartIdle_quiet s) (by simp)

theorem dispatch_moves {s t : State} {k : Key} {e : Edge} (h : dispatch s k e = some t) : s.Moves t := by
  cases e with
  | press =>
    have h : handle (restartIdle s) s.mode k = some t := h
    rw [← restartIdle_mode s] at h
    exact (restartIdle_moves s).trans (handle_moves h)
  | release =>
    rw [← Option.some.inj (h : some (restartIdle s) = some t)]
    exact restartIdle_moves s

theorem dispatchEdges_moves {changed levels : BitVec 6} {ks : List Key} {s t : State}
    (h : dispatchEdges changed levels ks s = some t) : s.Moves t := by
  induction ks generalizing s with
  | nil => rw [← Option.some.inj (h : some s = some t)]; exact .refl s
  | cons k ks ih =>
    unfold dispatchEdges at h
    split at h
    · split at h
      · cases h
      · rename_i u hu
        exact (dispatch_moves hu).trans (ih h)
    · exact ih h

theorem idleTick_moves {s t : State} (h : idleTick s = some t) : s.Moves t := by
  unfold idleTick at h
  split at h
  · split at h
    · exact State.Moves.trans (t := { s with idleCount := 0#16 })
        (.of_mode_eq (quiet_of_eq rfl rfl rfl rfl rfl rfl) rfl) (handle_moves (s := { s with idleCount := 0#16 }) h)
    · rw [← Option.some.inj h]
      exact .of_mode_eq (quiet_of_eq rfl rfl rfl rfl rfl rfl) rfl
  · rw [← Option.some.inj h]
    exact .refl s

/-- What a poll does (R190): its events in order, then the idle timer if there was none. -/
theorem pollKeysEffect_eq_some {s t : State} {levels : BitVec 6} (h : pollKeysEffect s levels = some t) :
    ∃ u, dispatchEdges (levels ^^^ s.keyPrev) levels Key.all { s with keyPrev := levels } = some u ∧
      (if levels ^^^ s.keyPrev = 0#6 then idleTick u = some t else t = u) := by
  unfold pollKeysEffect at h
  dsimp only at h
  split at h
  · cases h
  · rename_i u hu
    refine ⟨u, hu, ?_⟩
    split at h
    · rename_i h0; rw [if_pos h0]; exact h
    · rename_i h0; rw [if_neg h0]; exact (Option.some.inj h).symm

theorem pollKeysEffect_moves {s t : State} {levels : BitVec 6} (h : pollKeysEffect s levels = some t) :
    s.Moves t := by
  obtain ⟨u, hu, h⟩ := pollKeysEffect_eq_some h
  have hu : s.Moves u := State.Moves.trans (t := { s with keyPrev := levels })
    (.of_mode_eq (quiet_of_eq rfl rfl rfl rfl rfl rfl) rfl) (dispatchEdges_moves hu)
  split at h
  · exact hu.trans (idleTick_moves h)
  · rw [h]; exact hu

end Sys2Proof.Machine
end

