-- ==== Sys2Proof/Laws/PerInstr.lean ====
section
/-!
SUPPORT. What holds of every instruction as syntax, one lemma a constructor: its word fits 64 bits, carries its opcode in bits 63:56,
and has the reserved bits 55:36 clear (30_encoding.md R81).
-/

namespace Sys2Proof.Laws.OpcodeField

/-- The common fields of R81 in the word of `i`. -/
def Statement (i : Instr) : Prop :=
  bits (encode i) 56 8 = opcode i ∧ bits (encode i) 36 20 = 0#20

/-- The common fields, for operand bits that stay in 35:0. -/
theorem of_operandBits_lt (i : Instr) (h : operandBits i < 2 ^ 36) : Statement i := by
  have hop := (opcode i).isLt
  refine ⟨bits_ofNat _ 56 8 _ ?_ ?_, bits_ofNat _ 36 20 _ ?_ ?_⟩ <;>
    simp only [place, BitVec.toNat_ofNat] <;> omega

theorem place_lt (len : Nat) (v : BitVec len) (lo : Nat) : place len v lo < 2 ^ (len + lo) := by
  unfold place
  rw [Nat.pow_add]
  exact Nat.mul_lt_mul_of_pos_right v.isLt (Nat.two_pow_pos lo)

theorem advanceTick : Statement .advanceTick := of_operandBits_lt _ (by decide)

theorem getTime : Statement .getTime := of_operandBits_lt _ (by decide)

theorem setTime (cnt : BitVec 4) (d0 d1 d2 d3 : Digit) : Statement (.setTime cnt d0 d1 d2 d3) := by
  refine of_operandBits_lt _ ?_
  have := cnt.isLt; have := d0.isLt; have := d1.isLt; have := d2.isLt; have := d3.isLt
  simp only [operandBits, place]; omega

theorem getAlarm : Statement .getAlarm := of_operandBits_lt _ (by decide)

theorem setAlarm (d0 d1 d2 d3 : Digit) : Statement (.setAlarm d0 d1 d2 d3) := by
  refine of_operandBits_lt _ ?_
  have := d0.isLt; have := d1.isLt; have := d2.isLt; have := d3.isLt
  simp only [operandBits, place]; omega

theorem toggleAlarm : Statement .toggleAlarm := of_operandBits_lt _ (by decide)

theorem snooze (minutes : BitVec 8) : Statement (.snooze minutes) := by
  refine of_operandBits_lt _ ?_
  have := place_lt 8 minutes 0
  simp only [operandBits]; omega

theorem cancelAlarm : Statement .cancelAlarm := of_operandBits_lt _ (by decide)

theorem writeDigits (cnt : BitVec 4) (v0 v1 v2 v3 v4 v5 v6 v7 : Digit) :
    Statement (.writeDigits cnt v0 v1 v2 v3 v4 v5 v6 v7) := by
  refine of_operandBits_lt _ ?_
  have := cnt.isLt; have := v0.isLt; have := v1.isLt; have := v2.isLt; have := v3.isLt
  have := v4.isLt; have := v5.isLt; have := v6.isLt; have := v7.isLt
  simp only [operandBits, place]; omega

theorem refresh : Statement .refresh := of_operandBits_lt _ (by decide)

theorem setFlashWindow (fromDigit toDigit : BitVec 8) (factor : BitVec 16) :
    Statement (.setFlashWindow fromDigit toDigit factor) := by
  refine of_operandBits_lt _ ?_
  have := fromDigit.isLt; have := toDigit.isLt; have := factor.isLt
  simp only [operandBits, place]; omega

theorem toggleDot (index : BitVec 8) : Statement (.toggleDot index) := by
  refine of_operandBits_lt _ ?_
  have := place_lt 8 index 0
  simp only [operandBits]; omega

theorem setDots (mask : BitVec 8) : Statement (.setDots mask) := by
  refine of_operandBits_lt _ ?_
  have := place_lt 8 mask 0
  simp only [operandBits]; omega

theorem clearDots (mask : BitVec 8) : Statement (.clearDots mask) := by
  refine of_operandBits_lt _ ?_
  have := place_lt 8 mask 0
  simp only [operandBits]; omega

theorem pollKeys (levels : BitVec 6) : Statement (.pollKeys levels) := by
  refine of_operandBits_lt _ ?_
  have := place_lt 6 levels 0
  simp only [operandBits]; omega

theorem keyEvent (key : BitVec 3) (edge : Edge) : Statement (.keyEvent key edge) := by
  refine of_operandBits_lt _ ?_
  have := place_lt 3 key 0
  have := place_lt 1 (bitOfEdge edge) 8
  simp only [operandBits]; omega

end Sys2Proof.Laws.OpcodeField
end

