-- ==== Sys2Proof/Laws/Step.lean ====
section
/-!
SUPPORT. What a command and a step can do: the inversion of each command into the effect it has and the response it ends in, and
of the step into the command it runs.
-/

namespace Sys2Proof.Machine

@[simp] theorem running_of_not_halted {s : State} (h : s.halted = false) (c : Result) : running s c = c := by
  simp [running, h]

@[simp] theorem running_of_halted {s : State} (h : s.halted = true) (c : Result) :
    running s c = .fault .halted := by
  simp [running, h]

theorem running_eq_next {s t : State} {c : Result} (h : running s c = .next t) :
    s.halted = false ∧ c = .next t := by
  cases hh : s.halted
  · rw [running_of_not_halted hh] at h; exact ⟨rfl, h⟩
  · rw [running_of_halted hh] at h; cases h

theorem answer_eq_next {r : Status × State} {t : State} (h : answer r = .next t) :
    t = r.2.respond r.1 0x0000#16 := by
  unfold answer at h
  injection h with h
  exact h.symm

theorem finish_eq_next {o : Option State} {t : State} (h : finish o = .next t) :
    ∃ u, o = some u ∧ t = u.respond .ok 0x0000#16 := by
  cases o with
  | none => cases h
  | some u => exact ⟨u, rfl, answer_eq_next h⟩

@[simp] theorem finish_some (s : State) : finish (some s) = .next (s.respond .ok 0x0000#16) := rfl

@[simp] theorem answer_mk (st : Status) (s : State) : answer (st, s) = .next (s.respond st 0x0000#16) := rfl

/-- What one step of the flash counter does (R152). -/
theorem stepFlashCount_eq (s : State) :
    stepFlashCount s =
      { s with
        flashCount :=
          if s.flashFactor ≠ 0#16 ∧ s.activeDigit = 0#3 then
            BitVec.ofNat 16 ((s.flashCount.toNat + 1) % s.flashFactor.toNat)
          else s.flashCount } := by
  unfold stepFlashCount; split <;> simp [*]

/-- What a REFRESH does to the state (R152): the scan, the flash counter and three driver events. -/
theorem refreshEffect_eq (s : State) :
    refreshEffect s =
      { s with
        activeDigit := (advanceScan s).activeDigit
        flashCount := (stepFlashCount (advanceScan s)).flashCount
        trace := s.trace ++
          [.drvAllOff,
            .drvSegments (shownByte (stepFlashCount (advanceScan s)) (advanceScan s).activeDigit.toNat),
            .drvDigit ((advanceScan s).activeDigit.setWidth 8)] } := by
  simp [refreshEffect, stepFlashCount_eq, advanceScan, State.emit]

/-- A tick that rings the alarm: a minute rollover to the alarm's time while it is enabled (R125). -/
def tickRings (s t : State) : Prop :=
  (countTick s).tickCount = 0#16 ∧ s.seconds = 59#6 ∧ s.alarmEn = true ∧ t.time = s.alarmTime

/-- What a tick does to the registers every command respects, to the trace and to the mode (R120, R123): it emits one
ALARM_NOTIFY(1) where it rings the alarm, and nothing else. -/
theorem tickEffect_spec {s t : State} (h : tickEffect s = some t) :
    t.params = s.params ∧ t.halted = s.halted ∧ t.input = s.input ∧ t.clockValid = s.clockValid ∧
      t.mode = s.mode ∧ (s.BufForm → t.BufForm) ∧ t.tickCount = (countTick s).tickCount ∧
      ((tickRings s t ∧ t.trace = s.trace ++ [.alarmNotify true]) ∨
        (¬ tickRings s t ∧ t.trace = s.trace)) := by
  rcases tickEffect_cases h with ⟨h0, rfl⟩ | ⟨h0, hs, rfl⟩ | ⟨h0, hs, u, hu, rfl⟩
  · have q := halfSecondIfDue_quiet (countTick s)
    exact ⟨q.params, q.halted, q.input, by simp, by simp, fun hf => q.form hf, by simp,
      .inr ⟨fun c => h0 c.1, by simp⟩⟩
  · have q := halfSecondIfDue_quiet { countTick s with seconds := s.seconds + 1#6 }
    exact ⟨q.params, q.halted, q.input, by simp, by simp, fun hf => q.form hf, by simp,
      .inr ⟨fun c => hs c.2.1, by simp⟩⟩
  · have q := (minuteDisplayUpdate_quiet (checkAlarm { countTick s with seconds := 0#6, time := u })).trans
      (halfSecondIfDue_quiet _)
    rw [checkAlarm_eq] at q ⊢
    refine ⟨q.params, q.halted, q.input, by simp, by simp, fun hf => q.form hf, by simp, ?_⟩
    by_cases hr : s.alarmEn = true ∧ u = s.alarmTime
    · refine .inl ⟨⟨h0, hs, hr.1, by simpa using hr.2⟩, ?_⟩
      simp [hr.1, hr.2]
    · refine .inr ⟨fun c => hr ⟨c.2.2.1, by simpa using c.2.2.2⟩, ?_⟩
      have hr' : ¬ ((countTick s).alarmEn = true ∧ u = (countTick s).alarmTime) := hr
      simp only [halfSecondIfDue_trace, minuteDisplayUpdate_trace]
      rw [if_neg hr', List.append_nil]
      rfl

/-- Construction succeeds for the legal digit counts (R281). -/
theorem constructionSucceeds_iff (p : Params) :
    constructionSucceeds p = true ↔ 1 ≤ p.digitCount ∧ p.digitCount ≤ maxDigits := by
  simp [constructionSucceeds]

/-- Every command but the tick and the refresh: a quiet effect and one response, with data for the getters alone (R98). -/
theorem exec_cases {i : Instr} {s t : State} (h : exec i s = .next t) (h1 : i ≠ .advanceTick)
    (h2 : i ≠ .refresh) :
    ∃ u st data, s.Moves u ∧ t = u.respond st data ∧
      data = (match i with
        | .getTime => s.time.packed
        | .getAlarm => s.alarmTime.packed
        | _ => 0x0000#16) := by
  have out : ∀ r : Status × State, s.Moves r.2 → answer r = .next t →
      ∃ u st data, s.Moves u ∧ t = u.respond st data ∧ data = 0x0000#16 :=
    fun r hr ha => ⟨r.2, r.1, _, hr, answer_eq_next ha, rfl⟩
  cases i with
  | advanceTick => exact absurd rfl h1
  | refresh => exact absurd rfl h2
  | getTime =>
    obtain ⟨-, h⟩ := running_eq_next h
    injection h with h
    exact ⟨s, _, _, .refl s, h.symm, rfl⟩
  | getAlarm =>
    obtain ⟨-, h⟩ := running_eq_next h
    injection h with h
    exact ⟨s, _, _, .refl s, h.symm, rfl⟩
  | setTime cnt d0 d1 d2 d3 =>
    refine out _ (.of_mode_eq (setTimeEffect_quiet s cnt ⟨d0, d1, d2, d3⟩) ?_) (running_eq_next h).2
    unfold setTimeEffect; split <;> rfl
  | setAlarm d0 d1 d2 d3 =>
    refine out _ (.of_mode_eq (setAlarmEffect_quiet s ⟨d0, d1, d2, d3⟩) ?_) (running_eq_next h).2
    unfold setAlarmEffect; split <;> rfl
  | toggleAlarm => exact out _ (.of_mode_eq (toggleAlarmEn_quiet s) rfl) (running_eq_next h).2
  | snooze minutes =>
    obtain ⟨-, h⟩ := running_eq_next h
    split at h
    · cases h
    · rename_i r hr
      refine out r (.of_mode_eq (snoozeEffect_quiet hr) ?_) h
      rcases snoozeEffect_cases hr with ⟨-, rfl⟩ | ⟨-, u, -, rfl⟩ <;> rfl
  | cancelAlarm =>
    refine out _ (.of_mode_eq (cancelAlarmEffect_quiet s) ?_) (running_eq_next h).2
    unfold cancelAlarmEffect; split <;> rfl
  | writeDigits cnt v0 v1 v2 v3 v4 v5 v6 v7 =>
    exact out _ (.of_mode_eq (writeDigitsEffect_quiet s _ _) (by simp)) (running_eq_next h).2
  | setFlashWindow f g x => exact out _ (.of_mode_eq (setFlashEffect_quiet s _ _ _) rfl) (running_eq_next h).2
  | toggleDot index => exact out _ (.of_mode_eq (toggleDotEffect_quiet s _) (by simp)) (running_eq_next h).2
  | setDots mask => exact out _ (.of_mode_eq (forceDots_quiet s _ _ _) (by simp)) (running_eq_next h).2
  | clearDots mask => exact out _ (.of_mode_eq (forceDots_quiet s _ _ _) (by simp)) (running_eq_next h).2
  | pollKeys levels =>
    obtain ⟨u, hu, rfl⟩ := finish_eq_next (running_eq_next h).2
    exact ⟨u, _, _, pollKeysEffect_moves hu, rfl, rfl⟩
  | keyEvent key edge =>
    obtain ⟨-, h⟩ := running_eq_next h
    split at h
    · exact out _ (.refl s) h
    · obtain ⟨u, hu, rfl⟩ := finish_eq_next h
      exact ⟨u, _, _, dispatch_moves hu, rfl, rfl⟩

/-- A tick that answers (R120). -/
theorem execAdvanceTick_eq_next {s t : State} (h : exec .advanceTick s = .next t) :
    s.params.ticksPerSecond ≠ 0#16 ∧ ∃ u, tickEffect s = some u ∧ t = u.respond .ok u.tickCount := by
  obtain ⟨-, h⟩ := running_eq_next h
  split at h
  · cases h
  · rename_i h0
    split at h
    · cases h
    · rename_i u hu
      injection h with h
      exact ⟨h0, u, hu, h.symm⟩

/-- A refresh that answers (R152). -/
theorem execRefresh_eq_next {s t : State} (h : exec .refresh s = .next t) :
    constructionSucceeds s.params = true ∧ t = (refreshEffect s).respond .ok 0x0000#16 := by
  obtain ⟨-, h⟩ := running_eq_next h
  split at h
  · rename_i hc
    exact ⟨hc, answer_eq_next h⟩
  · cases h

@[simp] theorem keyOfNumber_number (k : Key) : keyOfNumber (BitVec.ofNat 3 k.number) = some k := by
  cases k <;> rfl

/-- A press is one cell of the table of R195, with the idle timer restarted first (R192, R193). -/
theorem exec_press {s : State} (h : s.halted = false) (k : Key) :
    exec (.keyEvent (BitVec.ofNat 3 k.number) .press) s = finish (handle (restartIdle s) s.mode k) := by
  show running s _ = _
  rw [running_of_not_halted h, keyOfNumber_number]; rfl

/-- What a step does (R63, R80): nothing while no word has arrived; else it takes the next word and runs it, or answers it. -/
theorem step_cases {s t : State} (h : step s = .next t) :
    s.halted = false ∧
      ((s.input = [] ∧ t = s) ∨
        ∃ w rest, s.input = w :: rest ∧
          ((∃ i, decode w = .ok i ∧ exec i { s with input := rest } = .next t) ∨
            (∃ e, decode w = .error e) ∧
              t = { s with input := rest }.respond .undefinedCommand 0x0000#16)) := by
  obtain ⟨hh, h⟩ := running_eq_next h
  refine ⟨hh, ?_⟩
  unfold State.nextCommand at h
  cases hi : s.input with
  | nil =>
    simp only [hi] at h
    injection h with h
    exact .inl ⟨rfl, h.symm⟩
  | cons w rest =>
    simp only [hi] at h
    refine .inr ⟨w, rest, rfl, ?_⟩
    cases hd : decode w with
    | ok i => rw [hd] at h; exact .inl ⟨i, rfl, h⟩
    | error e => rw [hd] at h; exact .inr ⟨⟨e, rfl⟩, answer_eq_next h⟩

end Sys2Proof.Machine
end

