-- ==== Sys2Proof/Tests/Slice0.lean ====
section
/-!
SUPPORT. Tests of the model. Expected results come from spec/: the formats and the worked encodings of 30_encoding.md (R81-R90,
R100) and the vectors EX, EN, CK, TK, DS, KP and RS of 95_test_vectors.md, named in each theorem's comment. The last part gives, for
every statement of Certificates/Slice0 that has hypotheses, a state and operands that meet them.
-/

namespace Sys2Proof.Tests

open Sys2Proof Sys2Proof.Machine

/-! ## What the tests are written with -/

/-- The parameters of 95_test_vectors.md section 0, but for the tick rate and the idle limit. -/
def params (tps idle : BitVec 16) : Params :=
  { referenceParams with ticksPerSecond := tps, idleLimit := idle, editFlashFactor := 4#16 }

/-- The parameters with another digit count. -/
def paramsOf (digits : Nat) : Params := { params 1000#16 0#16 with digitCount := digits }

/-- S0 of 95_test_vectors.md. -/
def s0 : State := State.resetWith (params 1000#16 0#16)

/-- A block with one tick a second, an idle limit of 2 and the time set. -/
def clockAt (t : Time) : State :=
  { State.resetWith (params 1#16 2#16) with time := t, clockValid := true }

/-- The alarm of 23:58 sounding (CK13 to CK18). -/
def ringing : State :=
  { clockAt ⟨2#4, 3#4, 5#4, 8#4⟩ with
    alarmTime := ⟨2#4, 3#4, 5#4, 8#4⟩, alarmEn := true, ringing := true }

/-- The last second of 23:59 in ShowingTime, the alarm set to 00:00. -/
def lastSecond : State :=
  { clockAt ⟨2#4, 3#4, 5#4, 9#4⟩ with seconds := 59#6, alarmEn := true, mode := .showingTime }

/-- The time of 23:45 in a mode, and in the edit buffer. -/
def inMode (m : Mode) : State :=
  { clockAt ⟨2#4, 3#4, 4#4, 5#4⟩ with mode := m, edit := ⟨2#4, 3#4, 4#4, 5#4⟩ }

/-- The display `[06,5B,4F,66]` (DS1 to DS8). -/
def shown1234 : State := { s0 with buf := [(0, 0x06#8), (1, 0x5B#8), (2, 0x4F#8), (3, 0x66#8)] }

/-- The next state, if there is one. -/
def after : Result → Option State
  | .next t => some t
  | _ => none

/-- The four entries of the display. -/
def display (t : State) : List Byte := [t.bufRead 0, t.bufRead 1, t.bufRead 2, t.bufRead 3]

/-- The events after the first, which is the reset's own. -/
def emitted (t : State) : List Event := t.trace.drop 1

/-- The flash window and factor. -/
def flash (t : State) : Nat × Nat × Nat := (t.flashFrom.toNat, t.flashTo.toNat, t.flashFactor.toNat)

/-! ## Well-formed terms -/

/-- R89: the six keys are well formed, 6 and 7 are not. -/
theorem test_wellFormed_keys :
    (Instr.keyEvent 0#3 .press).wellFormed = true ∧ (Instr.keyEvent 5#3 .release).wellFormed = true ∧
      (Instr.keyEvent 6#3 .press).wellFormed = false ∧ (Instr.keyEvent 7#3 .release).wellFormed = false := by
  decide

/-- R84 and R85: digits 10..15 and any count are well formed. -/
theorem test_wellFormed_digits :
    (Instr.setTime 3#4 15#4 15#4 15#4 15#4).wellFormed = true ∧
      (Instr.writeDigits 15#4 15#4 15#4 15#4 15#4 15#4 15#4 15#4 15#4).wellFormed = true := by
  decide

/-! ## Decoding: words written out bit by bit from R81-R90 -/

/-- Format N (R83): `OP`, then 56 zero bits. -/
theorem test_decode_advanceTick : decode (0b00000001#8 ++ 0#56) = .ok .advanceTick := by decide
theorem test_decode_getTime : decode (0b00000010#8 ++ 0#56) = .ok .getTime := by decide
theorem test_decode_getAlarm : decode (0b00000100#8 ++ 0#56) = .ok .getAlarm := by decide
theorem test_decode_toggleAlarm : decode (0b00000110#8 ++ 0#56) = .ok .toggleAlarm := by decide
theorem test_decode_cancelAlarm : decode (0b00001000#8 ++ 0#56) = .ok .cancelAlarm := by decide
theorem test_decode_refresh : decode (0b00010001#8 ++ 0#56) = .ok .refresh := by decide

/-- Format D4 (R84): 20 zero bits, `CNT` = 4, the digits 2, 3, 5, 9, 16 zero bits. -/
theorem test_decode_setTime :
    decode (0b00000011#8 ++ 0#20 ++ 0b0100#4 ++ 0b0010#4 ++ 0b0011#4 ++ 0b0101#4 ++ 0b1001#4 ++ 0#16) =
      .ok (.setTime 4#4 2#4 3#4 5#4 9#4) := by decide

/-- Format A (R86): no count. -/
theorem test_decode_setAlarm :
    decode (0b00000101#8 ++ 0#24 ++ 0b0000#4 ++ 0b0111#4 ++ 0b0011#4 ++ 0b1000#4 ++ 0#16) =
      .ok (.setAlarm 0#4 7#4 3#4 8#4) := by decide

/-- Format B (R87): the operand in bits 7:0. -/
theorem test_decode_snooze : decode (0b00000111#8 ++ 0#48 ++ 0b10000101#8) = .ok (.snooze 133#8) := by decide
theorem test_decode_toggleDot : decode (0b00010011#8 ++ 0#48 ++ 0b00000011#8) = .ok (.toggleDot 3#8) := by decide
theorem test_decode_setDots : decode (0b00010100#8 ++ 0#48 ++ 0b10000101#8) = .ok (.setDots 133#8) := by decide
theorem test_decode_clearDots : decode (0b00010101#8 ++ 0#48 ++ 0b11110001#8) = .ok (.clearDots 241#8) := by
  decide

/-- Format D8 (R85): `CNT` = 8, then the eight values from bits 31:28 down. -/
theorem test_decode_writeDigits :
    decode (0b00010000#8 ++ 0#20 ++ 0b1000#4 ++ 0b1001#4 ++ 0b1000#4 ++ 0b0111#4 ++ 0b0110#4 ++
        0b0101#4 ++ 0b0100#4 ++ 0b0011#4 ++ 0b1111#4) =
      .ok (.writeDigits 8#4 9#4 8#4 7#4 6#4 5#4 4#4 3#4 15#4) := by decide

/-- Format W (R88): the factor in bits 31:16, `TO` in bits 15:8, `FROM` in bits 7:0. -/
theorem test_decode_setFlashWindow :
    decode (0b00010010#8 ++ 0#24 ++ 0b0000000100000010#16 ++ 0b00000011#8 ++ 0b00000001#8) =
      .ok (.setFlashWindow 1#8 3#8 258#16) := by decide

/-- Format K: the levels in bits 5:0. -/
theorem test_decode_pollKeys : decode (0b00100000#8 ++ 0#50 ++ 0b110001#6) = .ok (.pollKeys 49#6) := by decide

/-- Format E (R89): `DIR` in bit 8, `KEY` in bits 2:0. -/
theorem test_decode_keyEvent :
    decode (0b00100001#8 ++ 0#47 ++ 0b1#1 ++ 0b00000#5 ++ 0b101#3) = .ok (.keyEvent 5#3 .press) ∧
      decode (0b00100001#8 ++ 0#47 ++ 0b0#1 ++ 0b00000#5 ++ 0b000#3) = .ok (.keyEvent 0#3 .release) := by
  decide

/-- EN1 to EN5: undefined words and what makes them so. -/
theorem test_decode_undefined :
    decode 0x0000000000000000#64 = .error (.unknownOpcode 0x00#8) ∧
      decode 0x0900000000000000#64 = .error (.unknownOpcode 0x09#8) ∧
      decode 0x0200001000000000#64 = .error .reservedBits ∧
      decode 0x0100000000000001#64 = .error .operandBits ∧
      decode 0x2100000000000106#64 = .error (.keyNumber 6#3) := by decide

/-- EN6 to EN10: an unused bit of each other format. -/
theorem test_decode_unused_bits :
    decode 0x2100000000000108#64 = .error .operandBits ∧ decode 0x2000000000000040#64 = .error .operandBits ∧
      decode 0x0500000407000000#64 = .error .operandBits ∧
      decode 0x0700000000000105#64 = .error .operandBits ∧
      decode 0x1200000100030100#64 = .error .operandBits := by decide

/-- EN11 to EN13: what a field may hold. -/
theorem test_decode_any_digit :
    decode 0x1000000099990000#64 = .ok (.writeDigits 0#4 9#4 9#4 9#4 9#4 0#4 0#4 0#4 0#4) ∧
      decode 0x0300000307000000#64 = .ok (.setTime 3#4 0#4 7#4 0#4 0#4) ∧
      decode 0x030000042A000000#64 = .ok (.setTime 4#4 2#4 10#4 0#4 0#4) := by decide

/-- EN8 and R100: the word of a command, and the instruction the table's bits are read as. -/
theorem test_encode_and_table :
    encode (.setFlashWindow 0#8 3#8 4#16) = 0x1200000000040300#64 ∧
      decodeTableWord 64 0x0500000007000000 = some (.setAlarm 0#4 7#4 0#4 0#4) ∧
      decodeTableWord 64 0x0500000407000000 = none := by decide

/-- R96 and R99: assembler lines and the words they stand for (R100). -/
theorem test_assembler :
    (readLine "SET_TIME 07:00, 3").map (AsmLine.words 4 Time.zero) = some [0x0300000307000000#64] ∧
      (readLine "  KEY_EVENT INC, PRESS ; a comment").map (AsmLine.words 4 Time.zero) =
        some [0x2100000000000100#64] ∧
      readLine "SNOOZE 256" = none := by decide

/-! ## BCD -/

/-- EX1 and EX2: a carry between digits, and the wraps of both fields. -/
theorem test_bcdInc :
    bcdInc (3#4, 9#4) minuteLimits = some ((4#4, 0#4), false) ∧
      bcdInc (5#4, 9#4) minuteLimits = some ((0#4, 0#4), true) ∧
      bcdInc (1#4, 9#4) hourLimits = some ((2#4, 0#4), false) ∧
      bcdInc (2#4, 3#4) hourLimits = some ((0#4, 0#4), true) := by decide
theorem test_bcdDec :
    bcdDec (4#4, 0#4) minuteLimits = some (3#4, 9#4) ∧ bcdDec (0#4, 0#4) minuteLimits = some (5#4, 9#4) ∧
      bcdDec (0#4, 0#4) hourLimits = some (2#4, 3#4) ∧ bcdDec (2#4, 4#4) hourLimits = none := by decide

/-- TK8 to TK11: the carries of a minute's increment. -/
theorem test_timeInc1 :
    timeInc1 ⟨0#4, 0#4, 5#4, 9#4⟩ = some ⟨0#4, 1#4, 0#4, 0#4⟩ ∧
      timeInc1 ⟨0#4, 9#4, 5#4, 9#4⟩ = some ⟨1#4, 0#4, 0#4, 0#4⟩ ∧
      timeInc1 ⟨1#4, 9#4, 5#4, 9#4⟩ = some ⟨2#4, 0#4, 0#4, 0#4⟩ ∧
      timeInc1 ⟨2#4, 3#4, 5#4, 9#4⟩ = some ⟨0#4, 0#4, 0#4, 0#4⟩ := by decide

/-! ## The clock commands -/

/-- TK2 and TK3: the half-second dot, the data of the response and the second. -/
theorem test_advanceTick :
    (after (exec .advanceTick { s0 with tickCount := 499#16 })).map (fun t => (display t, emitted t)) =
        some ([0x00#8, 0x80#8, 0x00#8, 0x00#8], [.response .ok 0x01F4#16]) ∧
      (after (exec .advanceTick { s0 with tickCount := 999#16, seconds := 5#6 })).map
          (fun t => (t.seconds, t.tickCount, t.bufRead 1)) = some (6#6, 0#16, 0x80#8) := by decide

/-- TK11, R121 to R124: the rollover to midnight rings the alarm, rewrites the display and then flips the separator dot. -/
theorem test_advanceTick_rollover :
    (after (exec .advanceTick lastSecond)).map (fun t => (t.time, t.ringing, display t, emitted t)) =
      some (Time.zero, true, [0x3F#8, 0xBF#8, 0x3F#8, 0x3F#8],
        [.alarmNotify true, .response .ok 0x0000#16]) := by decide

/-- CK10 and P2 step 11. -/
theorem test_getTime :
    (after (exec .getTime s0)).map emitted = some [.response .notReady 0x0000#16] ∧
      (after (exec .getTime (clockAt ⟨0#4, 7#4, 0#4, 5#4⟩))).map emitted =
        some [.response .ok 0x0705#16] := by decide

/-- CK1: 23:59 is accepted; `MODE` and the display do not follow. -/
theorem test_setTime :
    (after (exec (.setTime 4#4 2#4 3#4 5#4 9#4) { s0 with seconds := 7#6 })).map
        (fun t => (t.time.packed, t.seconds, t.clockValid, t.mode)) =
      some (0x2359#16, 0#6, true, .unconfigured) := by decide

/-- CK2 to CK5: 24:00, 1A:00, 00:60 and a count of 3 are refused. -/
theorem test_setTime_refused :
    ∀ i ∈ [Instr.setTime 4#4 2#4 4#4 0#4 0#4, .setTime 4#4 1#4 10#4 0#4 0#4, .setTime 4#4 0#4 0#4 6#4 0#4,
        .setTime 3#4 1#4 2#4 3#4 4#4],
      (after (exec i s0)).map (fun t => (t.clockValid, emitted t)) =
        some (false, [.response .invalidArgument 0x0000#16]) := by decide

/-- P2 step 12. -/
theorem test_getAlarm :
    (after (exec .getAlarm ringing)).map emitted = some [.response .ok 0x2358#16] := by decide

/-- CK7 and CK8. -/
theorem test_setAlarm :
    (after (exec (.setAlarm 2#4 3#4 5#4 9#4) s0)).map (fun t => (t.alarmTime.packed, t.alarmEn)) =
        some (0x2359#16, false) ∧
      (after (exec (.setAlarm 2#4 4#4 0#4 0#4) s0)).map (fun t => (t.alarmTime.packed, emitted t)) =
        some (0x0000#16, [.response .invalidArgument 0x0000#16]) := by decide

/-- CK17: the ring goes on. -/
theorem test_toggleAlarm :
    (after (exec .toggleAlarm ringing)).map (fun t => (t.alarmEn, t.ringing, emitted t)) =
      some (false, true, [.response .ok 0x0000#16]) := by decide

/-- CK13: five minutes past midnight. -/
theorem test_snooze :
    (after (exec (.snooze 5#8) ringing)).map (fun t => (t.alarmTime.packed, t.ringing, t.alarmEn, emitted t)) =
      some (0x0003#16, false, true, [.alarmNotify false, .response .ok 0x0000#16]) := by decide

/-- CK16. -/
theorem test_snooze_not_ringing :
    (after (exec (.snooze 5#8) s0)).map emitted = some [.response .notReady 0x0000#16] := by decide

/-- CK18 and CK19. -/
theorem test_cancelAlarm :
    (after (exec .cancelAlarm ringing)).map (fun t => (t.ringing, t.alarmEn, emitted t)) =
        some (false, true, [.alarmNotify false, .response .ok 0x0000#16]) ∧
      (after (exec .cancelAlarm s0)).map emitted = some [.response .ok 0x0000#16] := by decide

/-! ## The display commands -/

/-- EX4: the dots are kept. -/
theorem test_writeDigits :
    (after (exec (.writeDigits 4#4 1#4 2#4 3#4 4#4 0#4 0#4 0#4 0#4)
        { s0 with buf := [(1, 0x80#8), (3, 0x80#8)] })).map display =
      some [0x06#8, 0xDB#8, 0x4F#8, 0xE6#8] := by decide

/-- DS1 and DS2: the count bounds the entries written, and so does `N`. -/
theorem test_writeDigits_count :
    (after (exec (.writeDigits 0#4 9#4 9#4 9#4 9#4 0#4 0#4 0#4 0#4) shown1234)).map display =
        some [0x06#8, 0x5B#8, 0x4F#8, 0x66#8] ∧
      (after (exec (.writeDigits 8#4 9#4 8#4 7#4 6#4 5#4 4#4 3#4 2#4) shown1234)).map
          (fun t => (display t, t.bufRead 4)) =
        some ([0x6F#8, 0x7F#8, 0x07#8, 0x7D#8], 0x00#8) := by decide

/-- DS11: the scan goes round to digit 0. -/
theorem test_refresh :
    (after (exec .refresh { s0 with activeDigit := 3#3, buf := [(0, 0x3F#8)] })).map
        (fun t => (t.activeDigit, emitted t)) =
      some (0#3, [.drvAllOff, .drvSegments 0x3F#8, .drvDigit 0#8, .response .ok 0x0000#16]) := by decide

/-- DS18: one digit, factor 3, the second refresh: suppressed, the dot kept. -/
theorem test_refresh_flash :
    (after (exec .refresh
        { State.resetWith (paramsOf 1) with
          buf := [(0, 0xFF#8)], flashFactor := 3#16, flashCount := 1#16 })).map
        (fun t => (t.flashCount, emitted t)) =
      some (2#16, [.drvAllOff, .drvSegments 0x80#8, .drvDigit 0#8, .response .ok 0x0000#16]) := by decide

/-- DS9: the window is taken modulo `N + 1`. -/
theorem test_setFlashWindow :
    (after (exec (.setFlashWindow 9#8 5#8 2#16) { s0 with flashCount := 9#16 })).map
        (fun t => (flash t, t.flashCount)) = some ((4, 0, 2), 0#16) := by decide

/-- DS4 and DS5. -/
theorem test_toggleDot :
    (after (exec (.toggleDot 1#8) shown1234)).map display = some [0x06#8, 0xDB#8, 0x4F#8, 0x66#8] ∧
      (after (exec (.toggleDot 4#8) shown1234)).map (fun t => t.buf) = some shown1234.buf := by decide

/-- DS6 and DS7. -/
theorem test_setDots :
    (after (exec (.setDots 0x05#8) shown1234)).map display = some [0x86#8, 0x5B#8, 0xCF#8, 0x66#8] ∧
      (after (exec (.setDots 0xF0#8) shown1234)).map (fun t => t.buf) = some shown1234.buf := by decide

/-- DS8. -/
theorem test_clearDots :
    (after (exec (.clearDots 0xFF#8)
        { s0 with buf := [(0, 0x86#8), (1, 0xDB#8), (2, 0xCF#8), (3, 0x66#8)] })).map display =
      some [0x06#8, 0x5B#8, 0x4F#8, 0x66#8] := by decide

/-! ## The keypad and the modes -/

/-- KP6: three edges in one poll, in ascending key number. -/
theorem test_pollKeys :
    (after (exec (.pollKeys 0b110001#6)
        { s0 with mode := .editMinutesOfTime, edit := ⟨0#4, 0#4, 0#4, 1#4⟩, keyPrev := 0b000101#6 })).map
        (fun t => (t.mode, t.edit.packed, flash t, t.keyPrev)) =
      some (.editMinutesOfTime, 0x0001#16, (2, 3, 4), 0b110001#6) := by decide

/-- KP25 and KP27: the idle limit reached, in an hours and in a minutes variant. -/
theorem test_pollKeys_idle :
    (after (exec (.pollKeys 0b000000#6) { inMode .editHoursOfTime with idleCount := 1#16 })).map
        (fun t => (t.mode, t.idleCount, flash t)) = some (.editMinutesOfTime, 0#16, (2, 3, 4)) ∧
      (after (exec (.pollKeys 0b000000#6)
          { inMode .editMinutesOfTime with idleCount := 1#16, clockValid := false })).map
          (fun t => (t.mode, t.idleCount, display t, flash t)) =
        some (.unconfigured, 0#16, [0x3F#8, 0x3F#8, 0x3F#8, 0x3F#8], (0, 0, 0)) := by decide

/-- KP10 and KP11: Increment wraps one field and carries nothing. -/
theorem test_keyEvent_increment :
    (after (exec (.keyEvent 0#3 .press)
        { s0 with mode := .editMinutesOfTime, edit := ⟨0#4, 0#4, 5#4, 9#4⟩ })).map
        (fun t => (t.edit.packed, display t)) =
        some (0x0000#16, [0x3F#8, 0x3F#8, 0x3F#8, 0x3F#8]) ∧
      (after (exec (.keyEvent 0#3 .press) (inMode .editHoursOfTime))).map
          (fun t => (t.edit.packed, display t)) =
        some (0x0045#16, [0x3F#8, 0x3F#8, 0x66#8, 0x6D#8]) := by decide

/-- KP23: an alarm committed with no time set leads to Unconfigured and enables the alarm. -/
theorem test_keyEvent_commitAlarm :
    (after (exec (.keyEvent 4#3 .press)
        { s0 with mode := .editHoursOfAlarm, edit := ⟨0#4, 1#4, 0#4, 1#4⟩ })).map
        (fun t => (t.alarmTime.packed, t.alarmEn, t.mode, display t)) =
      some (0x0101#16, true, .unconfigured, [0x3F#8, 0x3F#8, 0x3F#8, 0x3F#8]) := by decide

/-! ## Reset and halt -/

/-- RS1, RS3 and RS4. -/
theorem test_reset :
    State.reset.trace = [.drvAllOff] ∧ State.reset.halted = false ∧
      (State.resetWith (paramsOf 0)).halted = true ∧ (State.resetWith (paramsOf 9)).trace = [] := by decide

/-- A word placed by the loader is the very next command (R63, R80), and an undefined one is answered (EN1). -/
theorem test_step :
    (after (step (State.reset.withFetchWord 64 0x0600000000000000))).map (fun t => (t.alarmEn, t.input)) =
        some (true, []) ∧
      (after (step (State.reset.withFetchWord 64 0))).map emitted =
        some [.response .undefinedCommand 0x0000#16] := by decide

/-! ## What the statements assume can be met -/

/-- A richer state of the invariant: an edit in progress, a dot on the display, a flash window, an idle poll counted. -/
def busy : State :=
  { inMode .editHoursOfTime with
    input := [0x1100000000000000#64, 0x2000000000000000#64], buf := [(0, 0x5B#8), (1, 0x80#8)]
    activeDigit := 3#3, flashFrom := 0#4, flashTo := 1#4, flashFactor := 4#16, flashCount := 3#16
    idleCount := 1#16 }

/-- The state meets the invariant (StepKeepsInvariant, RunningBlockNeverStops, FlashNeverOff), and so does the last second of a
day. -/
theorem busy_inv : busy.Inv where
  legal := by simp only [legalParams]; decide
  running := by decide
  clock := ⟨by decide, by decide, by decide, by decide, by decide⟩
  display := ⟨by decide, by decide, by decide, by decide, by decide, by decide, by decide⟩
  modes := ⟨by decide, by decide, by decide⟩

theorem lastSecond_inv : lastSecond.Inv where
  legal := by simp only [legalParams]; decide
  running := by decide
  clock := ⟨by decide, by decide, by decide, by decide, by decide⟩
  display := ⟨by decide, by decide, by decide, by decide, by decide, by decide, by decide⟩
  modes := ⟨by decide, by decide, by decide⟩

/-- The invariant with another flash window and other words waiting (FlashNeverOff, ScanVisitsDigitsInOrder). -/
theorem busy_flash_inv (input : List Word) (f t : BitVec 4) (x c : BitVec 16) (hf : f.toNat ≤ 4) (ht : t.toNat ≤ 4)
    (h0 : x = 0#16 → c = 0#16) (hc : x ≠ 0#16 → c.toNat < x.toNat) :
    { busy with input := input, flashFrom := f, flashTo := t, flashFactor := x, flashCount := c }.Inv where
  legal := busy_inv.legal
  running := busy_inv.running
  clock := ⟨busy_inv.clock.time_legal, busy_inv.clock.alarm_legal, busy_inv.clock.edit_legal, busy_inv.clock.tick_lt,
    busy_inv.clock.seconds_lt⟩
  display := ⟨busy_inv.display.buf_wf, busy_inv.display.buf_lt, busy_inv.display.active_lt, hf, ht, h0, hc⟩
  modes := ⟨busy_inv.modes.idle_zero, busy_inv.modes.idle_lt, busy_inv.modes.showing_valid⟩

/-- DecodeEncodeRoundTrip, DecodedWordEncodesBack: the operands at the ends of their ranges. -/
theorem witness_encoding :
    (Instr.keyEvent 5#3 .press).wellFormed = true ∧
      (Instr.setTime 15#4 15#4 0#4 15#4 0#4).wellFormed = true ∧
      decode 0x2100000000000105#64 = .ok (.keyEvent 5#3 .press) ∧
      decode 0x12000000FFFFFFFF#64 = .ok (.setFlashWindow 255#8 255#8 0xFFFF#16) := by decide

/-- UndefinedWordsAnswered: a word of no row, and KEY_EVENT with key 6 and 7. -/
theorem witness_undefinedWord :
    Stated.undefinedWord 0#64 ∧ Stated.undefinedWord 0x2100000000000106#64 ∧
      Stated.undefinedWord 0x2100000000000007#64 ∧ ¬ Stated.undefinedWord 0x2100000000000105#64 ∧
      { s0 with input := [0#64] }.halted = false := by
  refine ⟨.inl ?_, .inr (by decide), .inr (by decide), ?_, by decide⟩
  · simp [Stated.opcodeRows]
  · simp [Stated.undefinedWord, Stated.opcodeRows]

/-- StepRunsDecodedCommand, OneResponseLast and the statements over every step: a word waits, decodes, and the step answers. -/
theorem witness_step :
    busy.halted = false ∧ busy.input = [0x1100000000000000#64, 0x2000000000000000#64] ∧
      decode 0x1100000000000000#64 = .ok .refresh ∧
      (∃ t, step busy = .next t) ∧ (∃ t, exec .refresh busy = .next t) ∧ busy.clockValid = true ∧
      busy.mode ≠ .unconfigured ∧ busy.buf.wf ∧ (∀ c ∈ busy.buf, c.1 < busy.params.digitCount) :=
  ⟨by decide, rfl, by decide, ⟨_, rfl⟩, ⟨_, rfl⟩, by decide, by decide, by decide, by decide⟩

/-- OneResponseLast: a halted block with a word waiting. WaitingBlockChangesNothing, HaltedBlockIsStuck. -/
theorem witness_halted_and_waiting :
    { State.resetWith (paramsOf 0) with input := [0#64] }.halted = true ∧
      { State.resetWith (paramsOf 9) with input := [0#64] }.halted = true ∧
      s0.halted = false ∧ s0.input = [] := by decide

/-- ConstructionCheck, ResetValues, ResetMeetsInvariant: the digit counts about both limits. -/
theorem witness_digitCounts :
    (paramsOf 0).digitCount < 1 ∧ 8 < (paramsOf 9).digitCount ∧ legalParams (paramsOf 1) ∧
      legalParams (paramsOf 8) ∧ legalParams referenceParams := by
  simp only [legalParams]; decide

/-- ErrorsAndTheirCauses: each status a command reports. -/
theorem witness_errors :
    ∀ p ∈ [(Instr.setTime 3#4 0#4 7#4 0#4 0#4, Status.invalidArgument),
        (.setTime 4#4 2#4 4#4 0#4 0#4, .invalidArgument), (.setAlarm 2#4 4#4 0#4 0#4, .invalidArgument),
        (.getTime, .notReady), (.snooze 0#8, .notReady), (.toggleAlarm, .ok)],
      p.1.wellFormed = true ∧
        (after (exec p.1 s0)).bind (fun t => t.trace.getLast?) = some (.response p.2 0x0000#16) := by decide

/-- NoShowingTimeWithoutTime: a commit leads to ShowingTime. -/
theorem witness_showing :
    (inMode .editHoursOfTime).mode ≠ .showingTime ∧
      (after (exec (.keyEvent 4#3 .press) (inMode .editHoursOfTime))).map (fun t => (t.mode, t.clockValid)) =
        some (.showingTime, true) := by decide

/-- OnlyRefreshDrives: another command than REFRESH answers. -/
theorem witness_notRefresh : Instr.advanceTick ≠ .refresh ∧ ∃ t, exec .advanceTick lastSecond = .next t :=
  ⟨by decide, _, rfl⟩

/-- AlarmFiresExactly: the tick that rings, and the same tick with the alarm disabled (CK20). -/
theorem witness_alarm :
    (after (exec .advanceTick lastSecond)).map (fun t => decide (Event.alarmNotify true ∈ t.trace)) = some true ∧
      (after (exec .advanceTick { lastSecond with alarmEn := false })).map
          (fun t => decide (Event.alarmNotify true ∈ t.trace)) = some false := by decide

/-- BcdLaws, TimeIncrement: the ends of both fields are legal. IllegalFieldFaults: fields that are not. -/
theorem witness_fields :
    legalField (0#4, 0#4) minuteLimits = true ∧ legalField (5#4, 9#4) minuteLimits = true ∧
      legalField (0#4, 0#4) hourLimits = true ∧ legalField (2#4, 3#4) hourLimits = true ∧
      validTime ⟨2#4, 3#4, 5#4, 9#4⟩ = true ∧ legalField (6#4, 0#4) minuteLimits = false ∧
      legalField (2#4, 4#4) hourLimits = false := by decide

/-- IllegalFieldFaults: the last second of an illegal minute. -/
theorem witness_illegalField :
    let s := { lastSecond with time := ⟨0#4, 0#4, 6#4, 0#4⟩ }
    s.halted = false ∧ s.params.ticksPerSecond ≠ 0#16 ∧ Stated.nextTick s = 0 ∧ s.seconds = 59#6 ∧
      legalField s.time.minutes minuteLimits = false := by decide

/-- TickWithinMinute: no second elapsed; a second within the minute. -/
theorem witness_tickWithinMinute :
    let s := { s0 with seconds := 59#6 }
    let s' := { s0 with tickCount := 999#16, seconds := 58#6 }
    (s.halted = false ∧ s.params.ticksPerSecond ≠ 0#16 ∧ ¬ (Stated.nextTick s = 0 ∧ s.seconds = 59#6)) ∧
      Stated.nextTick s' = 0 ∧ ¬ (Stated.nextTick s' = 0 ∧ s'.seconds = 59#6) := by decide

/-- TickRollsMinuteOver: in ShowingTime with the alarm due, and outside it. -/
theorem witness_tickRollsMinuteOver :
    lastSecond.halted = false ∧ lastSecond.params.ticksPerSecond ≠ 0#16 ∧ Stated.nextTick lastSecond = 0 ∧
      lastSecond.seconds = 59#6 ∧ validTime lastSecond.time = true ∧
      { lastSecond with mode := .unconfigured, alarmEn := false }.halted = false := by decide

/-- ZeroModulusFaults: each clause. -/
theorem witness_zeroModulus :
    { s0 with params := params 0#16 0#16 }.halted = false ∧ (params 0#16 0#16).ticksPerSecond = 0#16 ∧
      (paramsOf 0).digitCount < 1 ∧ 8 < (paramsOf 9).digitCount := by decide

/-- GettersAnswer, SetTimeResult, SetAlarmResult, ToggleAlarmResult, CancelAlarmResult, WriteDigitsResult, ToggleDotResult,
SetDotsResult, ClearDotsResult, PollDispatchesEdges, ReleaseRunsNoHandler, VariantMoves: a block that is not halted; in VariantMoves,
one for each mode. -/
theorem witness_notHalted :
    s0.halted = false ∧ shown1234.halted = false ∧ ringing.halted = false ∧ s0.params.digitCount ≤ 8 ∧
      ∀ m ∈ [Mode.editMinutesOfTime, .editHoursOfTime, .editMinutesOfAlarm, .editHoursOfAlarm],
        (inMode m).halted = false ∧ (inMode m).mode = m := by decide

/-- WriteDigitsResult: a lane written and within `N`, the last of them, and the entries no lane writes. -/
theorem witness_writeDigits :
    [9#4, 8#4, 7#4, 15#4, 5#4, 4#4, 3#4, 2#4][3]? = some 15#4 ∧ 3 < (4#4).toNat ∧
      3 < shown1234.params.digitCount ∧ shown1234.params.digitCount ≤ 4 ∧ ¬ (15#4).toNat ≤ 9 ∧
      (9#4).toNat ≤ 9 := by decide

/-- SnoozeResult, AcceptWhileShowing, CancelWhileShowing: ringing, and not. -/
theorem witness_ringing :
    s0.ringing = false ∧ ringing.ringing = true ∧ validTime ringing.alarmTime = true ∧
      { ringing with mode := .showingTime }.halted = false ∧ lastSecond.mode = .showingTime ∧
      lastSecond.ringing = false ∧ lastSecond.halted = false := by decide

/-- RefreshResult, SetFlashWindowResult: both ends of the digit counts. -/
theorem witness_digits :
    1 ≤ (paramsOf 1).digitCount ∧ (paramsOf 8).digitCount ≤ 8 ∧ (State.resetWith (paramsOf 1)).halted = false ∧
      (State.resetWith (paramsOf 8)).halted = false := by decide

/-- ScanVisitsDigitsInOrder: refreshes waiting, and another word behind them. -/
theorem witness_scan :
    let s := { busy with input := List.replicate 5 (encode .refresh) ++ [0#64] }
    s.Inv ∧ s.input = List.replicate 5 0x1100000000000000#64 ++ [0#64] :=
  ⟨busy_flash_inv _ 0#4 1#4 4#16 3#16 (by decide) (by decide) (by decide) (by decide), by decide⟩

/-- FlashNeverOff: a factor of 2; a digit below the window; a digit above it; an empty window. -/
theorem witness_flash :
    { busy with flashFactor := 2#16, flashCount := 1#16 }.Inv ∧ (2#16).toNat ≤ 2 ∧
      { busy with flashFrom := 1#4 }.Inv ∧ 0 < (1#4).toNat ∧ busy.Inv ∧ busy.flashTo.toNat < 2 ∧
      { busy with flashFrom := 2#4 }.Inv ∧ busy.flashTo.toNat < (2#4).toNat :=
  ⟨busy_flash_inv _ 0#4 1#4 2#16 1#16 (by decide) (by decide) (by decide) (by decide), by decide,
    busy_flash_inv _ 1#4 1#4 4#16 3#16 (by decide) (by decide) (by decide) (by decide), by decide, busy_inv,
    by decide, busy_flash_inv _ 2#4 1#4 4#16 3#16 (by decide) (by decide) (by decide) (by decide), by decide⟩

/-- SingleEdgePollIsKeyEvent: the last key alone changes. -/
theorem witness_singleEdge :
    ∀ j : Fin 6, (0b100001#6).getLsbD j = { s0 with keyPrev := 0b000001#6 }.keyPrev.getLsbD j ↔ j ≠ 5 := by
  decide

/-- IdlePollTimesOut: not idle; below the limit; at it. -/
theorem witness_idle :
    s0.mode.isEdit = false ∧ busy.halted = false ∧ validTime busy.time = true ∧ busy.mode.isEdit = true ∧
      busy.params.idleLimit ≠ 0#16 ∧ busy.idleCount + 1#16 = busy.params.idleLimit ∧
      { busy with idleCount := 0#16 }.idleCount + 1#16 ≠ busy.params.idleLimit := by decide

/-- NoTransitionCells: each of its three cases. -/
theorem witness_noTransition :
    (s0.mode = .unconfigured ∧ Key.cancel ∈ [Key.increment, .decrement, .accept, .cancel]) ∧
      (lastSecond.mode = .showingTime ∧ Key.decrement ∈ [Key.increment, .decrement]) ∧
      (busy.mode.isEdit = true ∧ Key.startEditAlarm ∈ [Key.startEditTime, .startEditAlarm]) ∧
      s0.halted = false ∧ lastSecond.halted = false ∧ busy.halted = false := by decide

/-- EditMinutesKeys, EditHoursKeys, StartEditKeys, CancelDiscardsEdit, CommitTimeResult, CommitAlarmResult: their modes, with legal
times; and a commit of an illegal edit buffer. -/
theorem witness_edits :
    (∀ m ∈ [Mode.unconfigured, .showingTime, .editMinutesOfTime, .editHoursOfTime, .editMinutesOfAlarm,
        .editHoursOfAlarm],
      (inMode m).halted = false ∧ (inMode m).mode = m ∧ validTime (inMode m).edit = true ∧
        validTime (inMode m).time = true ∧ validTime (inMode m).alarmTime = true) ∧
      validTime { inMode .editHoursOfTime with edit := ⟨2#4, 4#4, 0#4, 0#4⟩ }.edit = false := by decide

/-- SeventhKeyIsUndefined: both key numbers. -/
theorem witness_seventhKey : s0.halted = false ∧ 6 ≤ (6#3).toNat ∧ 6 ≤ (7#3).toNat := by decide

end Sys2Proof.Tests
end

namespace Sys2Proof.Machine

/-!
SUPPORT. The state of the block (10_state.md): what every step keeps. `State.Inv` is proved once for each effect a command is
made of, then for each command, then for the step.
-/

/-! ### The BCD routines keep a field legal, and a time valid (R113, R116) -/

/-- The validation predicate as the legality of both fields (R116). -/
theorem validTime_iff_legalField (t : Time) :
    validTime t = true ↔ legalField t.hours hourLimits = true ∧ legalField t.minutes minuteLimits = true := by
  simp only [validTime, legalField, Time.hours, Time.minutes, hourLimits, minuteLimits, decide_eq_true_eq,
    ← BitVec.toNat_inj, BitVec.toNat_ofNat]
  omega

theorem bcdInc_legal {f : Field} {limits : Limits} {r : Field × Bool} (hl : limits.2.toNat ≤ 9)
    (h : bcdInc f limits = some r) : legalField r.1 limits = true := by
  unfold bcdInc at h
  split at h
  · rename_i hf
    simp only [legalField, decide_eq_true_eq, ← BitVec.toNat_inj] at hf ⊢
    have := limits.1.isLt
    split at h
    · obtain rfl := Option.some.inj h
      simp only [BitVec.toNat_ofNat]; omega
    · rename_i hne
      simp only [← BitVec.toNat_inj] at hne
      split at h <;> rename_i h9 <;> obtain rfl := Option.some.inj h <;>
        simp only [← BitVec.toNat_inj, BitVec.toNat_ofNat, BitVec.toNat_add] at h9 ⊢ <;> omega
  · cases h

theorem bcdDec_legal {f g : Field} {limits : Limits} (h : bcdDec f limits = some g) :
    legalField g limits = true := by
  unfold bcdDec at h
  split at h
  · rename_i hf
    simp only [legalField, decide_eq_true_eq, ← BitVec.toNat_inj] at hf ⊢
    have := f.1.isLt
    split at h
    · obtain rfl := Option.some.inj h
      omega
    · rename_i hne
      simp only [← BitVec.toNat_inj, BitVec.toNat_ofNat] at hne
      split at h <;> rename_i h9 <;> obtain rfl := Option.some.inj h <;>
        simp only [← BitVec.toNat_inj, BitVec.toNat_ofNat, BitVec.toNat_sub] at h9 ⊢ <;> omega
  · cases h

theorem withMinutes_valid {t : Time} {f : Field} (ht : validTime t = true)
    (hf : legalField f minuteLimits = true) : validTime (t.withMinutes f) = true :=
  (validTime_iff_legalField _).2 ⟨((validTime_iff_legalField t).1 ht).1, hf⟩

theorem withHours_valid {t : Time} {f : Field} (ht : validTime t = true)
    (hf : legalField f hourLimits = true) : validTime (t.withHours f) = true :=
  (validTime_iff_legalField _).2 ⟨hf, ((validTime_iff_legalField t).1 ht).2⟩

theorem timeInc1_valid {t u : Time} (ht : validTime t = true) (h : timeInc1 t = some u) :
    validTime u = true := by
  unfold timeInc1 at h
  split at h
  · cases h
  · rename_i m hm
    obtain rfl := Option.some.inj h
    exact withMinutes_valid ht (bcdInc_legal (by decide) hm)
  · rename_i m hm
    split at h
    · cases h
    · rename_i g c hg
      obtain rfl := Option.some.inj h
      exact withHours_valid (withMinutes_valid ht (bcdInc_legal (by decide) hm)) (bcdInc_legal (by decide) hg)

theorem addMinutes_valid {n : Nat} {t u : Time} (ht : validTime t = true) (h : addMinutes n t = some u) :
    validTime u = true := by
  induction n generalizing t with
  | zero => exact Option.some.inj h ▸ ht
  | succ n ih =>
    unfold addMinutes at h
    split at h
    · cases h
    · rename_i v hv
      exact ih (timeInc1_valid ht hv) h

/-! ### What the invariant reads -/

/-- A counter stepped modulo `m` stays below `m`, whatever the width of its register (R118). -/
theorem ofNat_mod_lt (w n : Nat) {m : Nat} (h : 0 < m) : (BitVec.ofNat w (n % m)).toNat < m := by
  rw [BitVec.toNat_ofNat]
  exact (Nat.mod_le _ _).trans_lt (Nat.mod_lt n h)

/-- `t` is `s` but for the buffer and the registers `State.Inv` says nothing of. -/
def State.SameBounded (s t : State) : Prop :=
  { t with
    input := s.input, trace := s.trace, draws := s.draws, alarmEn := s.alarmEn, ringing := s.ringing,
    buf := s.buf, keyPrev := s.keyPrev } = s

theorem State.SameBounded.of_frame {s t : State} (h : { t with buf := s.buf, draws := s.draws } = s) :
    s.SameBounded t := by
  have e := congrArg
    (fun u : State => { u with
      input := s.input, trace := s.trace, alarmEn := s.alarmEn, ringing := s.ringing, keyPrev := s.keyPrev }) h
  exact e

theorem State.SameBounded.of_buf_frame {s t : State} (h : { t with buf := s.buf } = s) : s.SameBounded t :=
  .of_frame (congrArg (fun u : State => { u with draws := s.draws }) h)

namespace State.Inv

variable {s t : State}

theorem bufForm (h : s.Inv) : s.BufForm := ⟨h.display.buf_wf, h.display.buf_lt⟩

theorem of_sameBounded (h : s.Inv) (e : s.SameBounded t) (hb : s.BufForm → t.BufForm) : t.Inv := by
  have hb := hb h.bufForm
  rw [← e] at h
  obtain ⟨hl, hr, hc, hd, hm⟩ := h
  exact ⟨hl, hr, ⟨hc.time_legal, hc.alarm_legal, hc.edit_legal, hc.tick_lt, hc.seconds_lt⟩,
    ⟨hb.1, hb.2, hd.active_lt, hd.from_le, hd.to_le, hd.count_zero, hd.count_lt⟩,
    ⟨hm.idle_zero, hm.idle_lt, hm.showing_valid⟩⟩

/-- New values in the clock registers, within their bounds. -/
theorem setClock (h : s.Inv) {time alarm edit : Time} {tick : BitVec 16} {seconds : BitVec 6}
    (htime : validTime time = true) (halarm : validTime alarm = true) (hedit : validTime edit = true)
    (htick : tick.toNat < s.params.ticksPerSecond.toNat) (hseconds : seconds.toNat < 60) :
    State.Inv { s with
      time := time, alarmTime := alarm, edit := edit, tickCount := tick, seconds := seconds } := by
  obtain ⟨hl, hr, -, hd, hm⟩ := h
  exact ⟨hl, hr, ⟨htime, halarm, hedit, htick, hseconds⟩,
    ⟨hd.buf_wf, hd.buf_lt, hd.active_lt, hd.from_le, hd.to_le, hd.count_zero, hd.count_lt⟩,
    ⟨hm.idle_zero, hm.idle_lt, hm.showing_valid⟩⟩

/-- New values in the scan and flash registers, within their bounds. -/
theorem setScan (h : s.Inv) {active : BitVec 3} {fromDigit toDigit : BitVec 4} {factor count : BitVec 16}
    (hactive : active.toNat < s.params.digitCount) (hfrom : fromDigit.toNat ≤ s.params.digitCount)
    (hto : toDigit.toNat ≤ s.params.digitCount) (hzero : factor = 0#16 → count = 0#16)
    (hcount : factor ≠ 0#16 → count.toNat < factor.toNat) :
    State.Inv { s with
      activeDigit := active, flashFrom := fromDigit, flashTo := toDigit, flashFactor := factor
      flashCount := count } := by
  obtain ⟨hl, hr, hc, hd, hm⟩ := h
  exact ⟨hl, hr, ⟨hc.time_legal, hc.alarm_legal, hc.edit_legal, hc.tick_lt, hc.seconds_lt⟩,
    ⟨hd.buf_wf, hd.buf_lt, hactive, hfrom, hto, hzero, hcount⟩,
    ⟨hm.idle_zero, hm.idle_lt, hm.showing_valid⟩⟩

/-- New values in the mode registers, within their bounds. -/
theorem setMode (h : s.Inv) {mode : Mode} {valid : Bool} {idle : BitVec 16}
    (hm : State.ModeInv { s with mode := mode, clockValid := valid, idleCount := idle }) :
    State.Inv { s with mode := mode, clockValid := valid, idleCount := idle } := by
  obtain ⟨hl, hr, hc, hd, -⟩ := h
  exact ⟨hl, hr, ⟨hc.time_legal, hc.alarm_legal, hc.edit_legal, hc.tick_lt, hc.seconds_lt⟩,
    ⟨hd.buf_wf, hd.buf_lt, hd.active_lt, hd.from_le, hd.to_le, hd.count_zero, hd.count_lt⟩, hm⟩

end State.Inv

/-- A stopped idle timer is within its bounds in every mode. -/
theorem modeInv_of_idle_zero {s : State} (h0 : s.idleCount = 0#16)
    (hv : s.mode = .showingTime → s.clockValid = true) : s.ModeInv := by
  refine ⟨fun _ => h0, fun _ hl => ?_, hv⟩
  rw [h0]
  exact BitVec.toNat_pos_of_ne_zero hl

/-! ### Each effect keeps the invariant -/

section
variable {s : State} (h : s.Inv)
include h

theorem respond_inv (st : Status) (d : BitVec 16) : (s.respond st d).Inv := h.of_sameBounded rfl id

theorem emit_inv (e : Event) : (s.emit e).Inv := h.of_sameBounded rfl id

theorem toggleAlarmEn_inv : s.toggleAlarmEn.Inv := h.of_sameBounded rfl id

theorem stopRing_inv : s.stopRing.Inv := h.of_sameBounded rfl id

theorem cancelAlarmEffect_inv : (cancelAlarmEffect s).Inv := by
  unfold cancelAlarmEffect
  split
  · exact stopRing_inv h
  · exact h

theorem checkAlarm_inv : (checkAlarm s).Inv := by
  rw [checkAlarm_eq]
  exact h.of_sameBounded rfl id

theorem writeDigitsEffect_inv (cnt : Nat) (vs : List Digit) : (writeDigitsEffect s cnt vs).Inv :=
  h.of_sameBounded (.of_frame (writeDigitsEffect_frame s cnt vs)) (writeDigitsEffect_bufForm s cnt vs)

theorem showDigits_inv (d : Time) : (showDigits s d).Inv := writeDigitsEffect_inv h 4 d.digits

theorem toggleDotEffect_inv (i : Nat) : (toggleDotEffect s i).Inv :=
  h.of_sameBounded (.of_buf_frame (toggleDotEffect_frame s i)) (toggleDotEffect_bufForm s i)

theorem forceDots_inv (dot : BitVec 1) (mask : Byte) (k : Nat) : (forceDots s dot mask k).Inv :=
  h.of_sameBounded (.of_buf_frame (forceDots_frame s dot mask k)) (forceDots_bufForm s dot mask k)

theorem minuteDisplayUpdate_inv : (minuteDisplayUpdate s).Inv :=
  h.of_sameBounded (.of_frame (minuteDisplayUpdate_frame s)) (minuteDisplayUpdate_quiet s).form

theorem halfSecondIfDue_inv : (halfSecondIfDue s).Inv :=
  h.of_sameBounded (.of_buf_frame (halfSecondIfDue_frame s)) (halfSecondIfDue_quiet s).form

theorem setFlashEffect_inv (f g : Nat) (x : BitVec 16) : (setFlashEffect s f g x).Inv := by
  have window (n : Nat) :
      (BitVec.ofNat 4 (n % (s.params.digitCount + 1))).toNat ≤ s.params.digitCount :=
    Nat.lt_succ_iff.1 (ofNat_mod_lt 4 n (Nat.succ_pos _))
  exact h.setScan h.display.active_lt (window f) (window g) (fun _ => rfl) BitVec.toNat_pos_of_ne_zero

theorem advanceScan_inv : (advanceScan s).Inv :=
  h.setScan (ofNat_mod_lt 3 _ h.legal.1) h.display.from_le h.display.to_le h.display.count_zero
    h.display.count_lt

theorem stepFlashCount_inv : (stepFlashCount s).Inv := by
  rw [stepFlashCount_eq]
  refine h.setScan h.display.active_lt h.display.from_le h.display.to_le (fun hx => ?_) fun hx => ?_
  · rw [if_neg fun c => c.1 hx]
    exact h.display.count_zero hx
  · split
    · exact ofNat_mod_lt 16 _ (BitVec.toNat_pos_of_ne_zero hx)
    · exact h.display.count_lt hx

theorem refreshEffect_inv : (refreshEffect s).Inv :=
  emit_inv (emit_inv (emit_inv (stepFlashCount_inv (advanceScan_inv h)) _) _) _

theorem countTick_inv : (countTick s).Inv :=
  h.setClock h.clock.time_legal h.clock.alarm_legal h.clock.edit_legal
    (ofNat_mod_lt 16 _ (BitVec.toNat_pos_of_ne_zero h.legal.2.2)) h.clock.seconds_lt

/-- A tick keeps the invariant, in each of its three cases (R120). -/
theorem tickEffect_inv {t : State} (ht : tickEffect s = some t) : t.Inv := by
  have hc := countTick_inv h
  obtain ⟨time_legal, alarm_legal, edit_legal, tick_lt, seconds_lt⟩ := hc.clock
  rcases tickEffect_cases ht with ⟨-, rfl⟩ | ⟨-, hs, rfl⟩ | ⟨-, -, u, hu, rfl⟩
  · exact halfSecondIfDue_inv hc
  · refine halfSecondIfDue_inv (hc.setClock time_legal alarm_legal edit_legal tick_lt ?_)
    have := h.clock.seconds_lt
    bv_omega
  · exact halfSecondIfDue_inv (minuteDisplayUpdate_inv (checkAlarm_inv
      (hc.setClock (timeInc1_valid time_legal hu) alarm_legal edit_legal tick_lt (by decide))))

theorem setTime_inv {t : Time} (ht : validTime t = true) :
    State.Inv { s with time := t, seconds := 0#6, clockValid := true } :=
  (h.setClock (time := t) (seconds := 0#6) ht h.clock.alarm_legal h.clock.edit_legal h.clock.tick_lt
    (by decide)).setMode ⟨h.modes.idle_zero, h.modes.idle_lt, fun _ => rfl⟩

theorem setAlarm_inv {t : Time} (ht : validTime t = true) : State.Inv { s with alarmTime := t } :=
  h.setClock h.clock.time_legal ht h.clock.edit_legal h.clock.tick_lt h.clock.seconds_lt

theorem setEdit_inv {t : Time} (ht : validTime t = true) : State.Inv { s with edit := t } :=
  h.setClock h.clock.time_legal h.clock.alarm_legal ht h.clock.tick_lt h.clock.seconds_lt

theorem setTimeEffect_inv (cnt : BitVec 4) (t : Time) : (setTimeEffect s cnt t).2.Inv := by
  unfold setTimeEffect
  split
  · rename_i hc
    exact setTime_inv h hc.2
  · exact h

theorem setAlarmEffect_inv (t : Time) : (setAlarmEffect s t).2.Inv := by
  unfold setAlarmEffect
  split
  · exact setAlarm_inv h ‹_›
  · exact h

theorem snoozeEffect_inv {minutes : BitVec 8} {r : Status × State} (hr : snoozeEffect s minutes = some r) :
    r.2.Inv := by
  rcases snoozeEffect_cases hr with ⟨-, rfl⟩ | ⟨-, u, hu, rfl⟩
  · exact h
  · exact stopRing_inv (setAlarm_inv h (addMinutes_valid h.clock.alarm_legal hu))

/-! ### Each cell of the mode table keeps the invariant, entered with the idle timer stopped (R193, R195) -/

theorem editAndShow_inv {t : Time} (ht : validTime t = true) : (editAndShow s t).Inv :=
  showDigits_inv (setEdit_inv h ht) t

variable {t : State}

theorem noTransition_inv (ht : noTransition s = some t) : t.Inv := Option.some.inj ht ▸ h

theorem incrementMinutes_inv (ht : incrementMinutes s = some t) : t.Inv := by
  obtain ⟨r, hr, rfl⟩ := Option.map_eq_some_iff.1 ht
  exact editAndShow_inv h (withMinutes_valid h.clock.edit_legal (bcdInc_legal (by decide) hr))

theorem incrementHours_inv (ht : incrementHours s = some t) : t.Inv := by
  obtain ⟨r, hr, rfl⟩ := Option.map_eq_some_iff.1 ht
  exact editAndShow_inv h (withHours_valid h.clock.edit_legal (bcdInc_legal (by decide) hr))

theorem decrementMinutes_inv (ht : decrementMinutes s = some t) : t.Inv := by
  obtain ⟨f, hf, rfl⟩ := Option.map_eq_some_iff.1 ht
  exact editAndShow_inv h (withMinutes_valid h.clock.edit_legal (bcdDec_legal hf))

theorem decrementHours_inv (ht : decrementHours s = some t) : t.Inv := by
  obtain ⟨f, hf, rfl⟩ := Option.map_eq_some_iff.1 ht
  exact editAndShow_inv h (withHours_valid h.clock.edit_legal (bcdDec_legal hf))

theorem acceptShowing_inv (ht : acceptShowing s = some t) : t.Inv := by
  rcases acceptShowing_cases ht with ⟨r, hr, rfl⟩ | rfl | rfl
  · exact snoozeEffect_inv h hr
  · exact h
  · exact toggleAlarmEn_inv h

theorem cancelShowing_inv (ht : cancelShowing s = some t) : t.Inv := by
  rcases cancelShowing_cases ht with rfl | rfl | rfl
  · exact cancelAlarmEffect_inv h
  · exact h
  · exact toggleAlarmEn_inv h

variable (h0 : s.idleCount = 0#16)
include h0

theorem withMode_inv {mode : Mode} (hv : mode = .showingTime → s.clockValid = true) :
    State.Inv { s with mode := mode } :=
  h.setMode (modeInv_of_idle_zero h0 hv)

theorem startEdit_inv {mode : Mode} {seed : Time} (hm : mode ≠ .showingTime) (hs : validTime seed = true)
    (ht : startEdit s mode seed = some t) : t.Inv :=
  Option.some.inj ht ▸ setFlashEffect_inv
    (showDigits_inv (withMode_inv (setEdit_inv h hs) h0 fun e => absurd e hm) seed) _ _ _

theorem toHours_inv {mode : Mode} (hm : mode ≠ .showingTime) (ht : toHours s mode = some t) : t.Inv :=
  Option.some.inj ht ▸ setFlashEffect_inv (withMode_inv h h0 fun e => absurd e hm) _ _ _

theorem toMinutes_inv {mode : Mode} (hm : mode ≠ .showingTime) (ht : toMinutes s mode = some t) : t.Inv :=
  Option.some.inj ht ▸ setFlashEffect_inv (withMode_inv h h0 fun e => absurd e hm) _ _ _

theorem leaveEdit_inv : (leaveEdit s).Inv := by
  have hf : (flashClear s).Inv := setFlashEffect_inv h 0 0 0#16
  unfold leaveEdit
  split
  · rename_i hv
    exact showDigits_inv (withMode_inv hf h0 fun _ => hv) _
  · exact showDigits_inv (withMode_inv hf h0 (mode := .unconfigured) fun e => nomatch e) _

theorem discardEdit_inv (ht : discardEdit s = some t) : t.Inv := Option.some.inj ht ▸ leaveEdit_inv h h0

theorem commitTime_inv (ht : commitTime s = some t) : t.Inv := by
  rcases commitTime_cases ht with ⟨hv, rfl⟩ | ⟨-, rfl⟩
  · exact leaveEdit_inv (setTime_inv h hv) h0
  · exact h

theorem commitAlarm_inv (ht : commitAlarm s = some t) : t.Inv := by
  rcases commitAlarm_cases ht with ⟨hv, rfl⟩ | ⟨-, rfl⟩
  · exact leaveEdit_inv ((setAlarm_inv h hv).of_sameBounded rfl id) h0
  · exact h

/-- The table of R195, cell by cell. -/
theorem handle_inv : ∀ (m : Mode) (k : Key), handle s m k = some t → t.Inv
  | .unconfigured, .increment, ht | .unconfigured, .decrement, ht | .unconfigured, .accept, ht
  | .unconfigured, .cancel, ht | .showingTime, .increment, ht | .showingTime, .decrement, ht
  | .editMinutesOfTime, .startEditTime, ht | .editMinutesOfTime, .startEditAlarm, ht
  | .editHoursOfTime, .startEditTime, ht | .editHoursOfTime, .startEditAlarm, ht
  | .editMinutesOfAlarm, .startEditTime, ht | .editMinutesOfAlarm, .startEditAlarm, ht
  | .editHoursOfAlarm, .startEditTime, ht | .editHoursOfAlarm, .startEditAlarm, ht => noTransition_inv h ht
  | .unconfigured, .startEditTime, ht | .unconfigured, .startEditAlarm, ht =>
    startEdit_inv h h0 (by decide) validTime_zero ht
  | .showingTime, .startEditTime, ht => startEdit_inv h h0 (by decide) h.clock.time_legal ht
  | .showingTime, .startEditAlarm, ht => startEdit_inv h h0 (by decide) h.clock.alarm_legal ht
  | .showingTime, .accept, ht => acceptShowing_inv h ht
  | .showingTime, .cancel, ht => cancelShowing_inv h ht
  | .editMinutesOfTime, .increment, ht | .editMinutesOfAlarm, .increment, ht => incrementMinutes_inv h ht
  | .editMinutesOfTime, .decrement, ht | .editMinutesOfAlarm, .decrement, ht => decrementMinutes_inv h ht
  | .editHoursOfTime, .increment, ht | .editHoursOfAlarm, .increment, ht => incrementHours_inv h ht
  | .editHoursOfTime, .decrement, ht | .editHoursOfAlarm, .decrement, ht => decrementHours_inv h ht
  | .editMinutesOfTime, .accept, ht | .editMinutesOfAlarm, .accept, ht => toHours_inv h h0 (by decide) ht
  | .editHoursOfTime, .cancel, ht | .editHoursOfAlarm, .cancel, ht => toMinutes_inv h h0 (by decide) ht
  | .editMinutesOfTime, .cancel, ht | .editMinutesOfAlarm, .cancel, ht => discardEdit_inv h h0 ht
  | .editHoursOfTime, .accept, ht => commitTime_inv h h0 ht
  | .editHoursOfAlarm, .accept, ht => commitAlarm_inv h h0 ht

end

/-! ### Each command, and the step -/

theorem answer_inv {st : Status} {s t : State} (h : s.Inv) (ht : answer (st, s) = .next t) : t.Inv :=
  answer_eq_next ht ▸ respond_inv h _ _

section
variable {s t : State} (h : s.Inv)
include h

/-- A state of the invariant has a stopped idle timer once it is restarted (R193). -/
theorem restartIdle_idleCount : (restartIdle s).idleCount = 0#16 := by
  unfold restartIdle
  split
  · rfl
  · rename_i hm
    exact h.modes.idle_zero (.inl (Bool.eq_false_of_not_eq_true hm))

theorem stopIdle_inv : State.Inv { s with idleCount := 0#16 } :=
  h.setMode (modeInv_of_idle_zero rfl h.modes.showing_valid)

theorem restartIdle_inv : (restartIdle s).Inv := by
  unfold restartIdle
  split
  · exact stopIdle_inv h
  · exact h

theorem dispatch_inv {k : Key} {e : Edge} (ht : dispatch s k e = some t) : t.Inv := by
  have hi := restartIdle_inv h
  cases e with
  | press => exact handle_inv hi (restartIdle_idleCount h) s.mode k ht
  | release => exact Option.some.inj ht ▸ hi

theorem dispatchEdges_inv {changed levels : BitVec 6} {ks : List Key}
    (ht : dispatchEdges changed levels ks s = some t) : t.Inv := by
  induction ks generalizing s with
  | nil => exact Option.some.inj ht ▸ h
  | cons k ks ih =>
    unfold dispatchEdges at ht
    split at ht
    · split at ht
      · cases ht
      · rename_i u hu
        exact ih (dispatch_inv h hu) ht
    · exact ih h ht

/-- The idle timer stays below its limit: at the limit it is cleared and the edit is cancelled (R222). -/
theorem idleTick_inv (ht : idleTick s = some t) : t.Inv := by
  unfold idleTick at ht
  split at ht
  · rename_i he
    split at ht
    · exact handle_inv (stopIdle_inv h) rfl _ _ ht
    · rename_i hne
      obtain rfl := Option.some.inj ht
      have hlt := h.modes.idle_lt he.1 he.2
      have hnext : (s.idleCount + 1#16).toNat < s.params.idleLimit.toNat := by bv_omega
      refine h.setMode ⟨fun c => ?_, fun _ _ => hnext, h.modes.showing_valid⟩
      exact (c.elim (fun c => Bool.false_ne_true (c.symm.trans he.1)) he.2).elim
  · exact Option.some.inj ht ▸ h

theorem pollKeysEffect_inv {levels : BitVec 6} (ht : pollKeysEffect s levels = some t) : t.Inv := by
  obtain ⟨u, hu, ht⟩ := pollKeysEffect_eq_some ht
  have hu : u.Inv := dispatchEdges_inv (s := { s with keyPrev := levels }) (h.of_sameBounded rfl id) hu
  split at ht
  · exact idleTick_inv hu ht
  · exact ht ▸ hu

/-- Every command keeps the invariant. -/
theorem exec_inv {i : Instr} (ht : exec i s = .next t) : t.Inv := by
  cases i with
  | advanceTick =>
    obtain ⟨-, u, hu, rfl⟩ := execAdvanceTick_eq_next ht
    exact respond_inv (tickEffect_inv h hu) _ _
  | refresh =>
    obtain ⟨-, rfl⟩ := execRefresh_eq_next ht
    exact respond_inv (refreshEffect_inv h) _ _
  | getTime | getAlarm =>
    obtain ⟨-, ht⟩ := running_eq_next ht
    injection ht with ht
    exact ht ▸ respond_inv h _ _
  | setTime cnt d0 d1 d2 d3 => exact answer_inv (setTimeEffect_inv h cnt ⟨d0, d1, d2, d3⟩) (running_eq_next ht).2
  | setAlarm d0 d1 d2 d3 => exact answer_inv (setAlarmEffect_inv h ⟨d0, d1, d2, d3⟩) (running_eq_next ht).2
  | toggleAlarm => exact answer_inv (toggleAlarmEn_inv h) (running_eq_next ht).2
  | snooze minutes =>
    obtain ⟨-, ht⟩ := running_eq_next ht
    split at ht
    · cases ht
    · exact answer_inv (snoozeEffect_inv h ‹_›) ht
  | cancelAlarm => exact answer_inv (cancelAlarmEffect_inv h) (running_eq_next ht).2
  | writeDigits cnt v0 v1 v2 v3 v4 v5 v6 v7 =>
    exact answer_inv (writeDigitsEffect_inv h _ _) (running_eq_next ht).2
  | setFlashWindow f g x => exact answer_inv (setFlashEffect_inv h _ _ _) (running_eq_next ht).2
  | toggleDot index => exact answer_inv (toggleDotEffect_inv h _) (running_eq_next ht).2
  | setDots mask | clearDots mask => exact answer_inv (forceDots_inv h _ _ _) (running_eq_next ht).2
  | pollKeys levels =>
    obtain ⟨u, hu, rfl⟩ := finish_eq_next (running_eq_next ht).2
    exact respond_inv (pollKeysEffect_inv h hu) _ _
  | keyEvent key edge =>
    obtain ⟨-, ht⟩ := running_eq_next ht
    split at ht
    · exact answer_inv h ht
    · obtain ⟨u, hu, rfl⟩ := finish_eq_next ht
      exact respond_inv (dispatch_inv h hu) _ _

theorem step_inv (ht : step s = .next t) : t.Inv := by
  obtain ⟨-, ⟨-, rfl⟩ | ⟨w, rest, -, hw⟩⟩ := step_cases ht
  · exact h
  · have hin : State.Inv { s with input := rest } := h.of_sameBounded rfl id
    rcases hw with ⟨i, -, he⟩ | ⟨-, rfl⟩
    · exact exec_inv hin he
    · exact respond_inv hin _ _

end

/-- Settles O11: each effect of a command keeps `State.Inv`, so each command does, and so the step. -/
theorem stepKeepsInvariant : Obligations.StepKeepsInvariant := fun _ _ h ht => step_inv h ht

/-! ### What every step keeps in every state -/

/-- What no command does in any state: change a parameter or the halt bit, take back an event, or spoil the buffer. -/
structure State.Extends (s t : State) : Prop where
  params : t.params = s.params
  halted : t.halted = s.halted
  trace : ∃ events, t.trace = s.trace ++ events
  form : s.BufForm → t.BufForm

theorem State.Quiet.toExtends {s t : State} (h : s.Quiet t) : s.Extends t :=
  ⟨h.params, h.halted, h.trace.imp' _ fun _ e => e, h.form⟩

theorem State.Extends.respond {s t : State} (h : s.Extends t) (st : Status) (d : BitVec 16) :
    s.Extends (t.respond st d) := by
  obtain ⟨events, he⟩ := h.trace
  exact ⟨h.params, h.halted, ⟨events ++ [.response st d], by simp [he]⟩, h.form⟩

theorem tickEffect_extends {s t : State} (h : tickEffect s = some t) : s.Extends t := by
  obtain ⟨hp, hh, -, -, -, hf, -, htr⟩ := tickEffect_spec h
  refine ⟨hp, hh, ?_, hf⟩
  rcases htr with ⟨-, htr⟩ | ⟨-, htr⟩
  · exact ⟨_, htr⟩
  · exact ⟨[], by simpa using htr⟩

theorem refreshEffect_extends (s : State) : s.Extends (refreshEffect s) := by
  rw [refreshEffect_eq]
  exact ⟨rfl, rfl, ⟨_, rfl⟩, id⟩

theorem exec_extends {i : Instr} {s t : State} (h : exec i s = .next t) : s.Extends t := by
  by_cases hi : i = .advanceTick
  · subst hi
    obtain ⟨-, u, hu, rfl⟩ := execAdvanceTick_eq_next h
    exact (tickEffect_extends hu).respond _ _
  by_cases hr : i = .refresh
  · subst hr
    obtain ⟨-, rfl⟩ := execRefresh_eq_next h
    exact (refreshEffect_extends s).respond _ _
  · obtain ⟨u, st, data, hu, rfl, -⟩ := exec_cases h hi hr
    exact hu.quiet.toExtends.respond _ _

theorem step_extends {s t : State} (h : step s = .next t) : s.Extends t := by
  obtain ⟨-, ⟨-, rfl⟩ | ⟨w, rest, -, ⟨i, -, he⟩ | ⟨-, rfl⟩⟩⟩ := step_cases h
  · exact (State.Quiet.refl t).toExtends
  · obtain ⟨hp, hh, htr, hf⟩ := exec_extends he
    exact ⟨hp, hh, htr, hf⟩
  · exact ⟨rfl, rfl, ⟨_, rfl⟩, id⟩

/-- Settles O13: every write to the buffer keeps its form, whatever the rest of the state holds. -/
theorem stepKeepsBufferForm : Obligations.StepKeepsBufferForm :=
  fun _ _ hwf hlt h => (step_extends h).form ⟨hwf, hlt⟩

/-- Settles O16: no command writes a parameter or the halt bit, and each one only appends events. -/
theorem parametersAndHaltFixed : Obligations.ParametersAndHaltFixed :=
  fun _ _ h => ⟨(step_extends h).params, (step_extends h).halted, (step_extends h).trace⟩

/-! ### Reset, and the packing of a time -/

theorem resetWith_inv {p : Params} (hp : legalParams p) : (State.resetWith p).Inv where
  legal := hp
  running := by
    show (!constructionSucceeds p) = false
    rw [(constructionSucceeds_iff p).2 ⟨hp.1, hp.2.1⟩, Bool.not_true]
  clock := ⟨validTime_zero, validTime_zero, validTime_zero,
    BitVec.toNat_pos_of_ne_zero hp.2.2, Nat.zero_lt_succ 59⟩
  display := ⟨reset_buf_wf p, fun _ hc => absurd hc List.not_mem_nil, hp.1, Nat.zero_le _, Nat.zero_le _,
    fun _ => rfl, fun hx => absurd rfl hx⟩
  modes := modeInv_of_idle_zero rfl fun e => nomatch e

theorem referenceParams_legal : legalParams referenceParams := ⟨by decide, by decide, by decide⟩

/-- Settles O10: the values of R282 lie within the bounds of R39 for all legal parameters, R6's own among them. -/
theorem resetMeetsInvariant : Obligations.ResetMeetsInvariant :=
  ⟨fun _ => resetWith_inv, resetWith_inv referenceParams_legal⟩

/-- Settles O29: each appended digit moves those before it up by four bits. -/
theorem timePacking : Obligations.TimePacking := by
  intro t
  have append (n : Nat) (x : BitVec n) (d : Digit) : (x ++ d).toNat = x.toNat * 16 + d.toNat := by
    rw [BitVec.toNat_append, ← Nat.shiftLeft_add_eq_or_of_lt d.isLt, Nat.shiftLeft_eq]
  simp only [Time.packed, append]
  omega

end Sys2Proof.Machine

namespace Sys2Proof.Machine

/-!
SUPPORT. Forward progress (20_memory.md R63, R71, 30_encoding.md R80): what a step is in each case of the input stream, and that
every effect with a BCD routine in it has a value on a state of the invariant, so that each command answers and so does the step.
-/

/-! ### The step, by the input stream -/

theorem nextCommand_of_nil {s : State} (h : s.input = []) : s.nextCommand = none := by
  simp [State.nextCommand, h]

theorem nextCommand_of_cons {s : State} {w : Word} {rest : List Word} (h : s.input = w :: rest) :
    s.nextCommand = some (w, { s with input := rest }) := by
  simp [State.nextCommand, h]

theorem step_of_no_word {s : State} (hr : s.halted = false) (hi : s.input = []) : step s = .next s := by
  rw [step, running_of_not_halted hr, nextCommand_of_nil hi]
  rfl

theorem step_of_command {s : State} {w : Word} {rest : List Word} {i : Instr} (hr : s.halted = false)
    (hi : s.input = w :: rest) (hd : decode w = .ok i) : step s = exec i { s with input := rest } := by
  rw [step, running_of_not_halted hr, nextCommand_of_cons hi]
  simp only [hd]

theorem step_of_undefined_word {s : State} {w : Word} {rest : List Word} {e : DecodeError}
    (hr : s.halted = false) (hi : s.input = w :: rest) (hd : decode w = .error e) :
    step s = undefinedCommand { s with input := rest } := by
  rw [step, running_of_not_halted hr, nextCommand_of_cons hi]
  simp only [hd]

/-- Settles O5: the head of the stream is taken, and it decodes to the command that runs. -/
theorem stepRunsDecodedCommand : Obligations.StepRunsDecodedCommand :=
  fun _ _ _ _ hr hi hd => step_of_command hr hi hd

/-- Settles O6: with an empty stream the step is the wait, which is the same state. -/
theorem waitingBlockChangesNothing : Obligations.WaitingBlockChangesNothing :=
  fun _ hr hi => step_of_no_word hr hi

/-! ### The BCD routines and the clock effects have a value on valid times (R117) -/

theorem minutes_legal {t : Time} (h : validTime t = true) : legalField t.minutes minuteLimits = true :=
  ((validTime_iff_legalField t).1 h).2

theorem hours_legal {t : Time} (h : validTime t = true) : legalField t.hours hourLimits = true :=
  ((validTime_iff_legalField t).1 h).1

/-- A valid time has a next minute: its minute field steps, and where that wraps its hour field does. -/
theorem timeInc1_some {t : Time} (ht : validTime t = true) : ∃ u, timeInc1 t = some u := by
  obtain ⟨⟨m, wrapped⟩, hm⟩ := bcdInc_some (minutes_legal ht)
  obtain ⟨r, hr⟩ := bcdInc_some (hours_legal ht)
  cases wrapped <;> simp [timeInc1, hm, hr]

theorem addMinutes_some (n : Nat) {t : Time} (ht : validTime t = true) : ∃ u, addMinutes n t = some u := by
  induction n generalizing t with
  | zero => exact ⟨t, rfl⟩
  | succ n ih =>
    obtain ⟨v, hv⟩ := timeInc1_some ht
    simpa only [addMinutes, hv] using ih (timeInc1_valid ht hv)

theorem minuteRollover_some {s : State} (ht : validTime s.time = true) : ∃ t, minuteRollover s = some t := by
  obtain ⟨u, hu⟩ := timeInc1_some ht
  simp [minuteRollover, hu]

theorem secondElapsed_some {s : State} (ht : validTime s.time = true) : ∃ t, secondElapsed s = some t := by
  unfold secondElapsed
  split
  · exact minuteRollover_some ht
  · exact ⟨_, rfl⟩

theorem tickEffect_some {s : State} (ht : validTime s.time = true) : ∃ t, tickEffect s = some t := by
  obtain ⟨u, hu⟩ := secondElapsed_some (s := countTick s) ht
  unfold tickEffect
  dsimp only
  split
  · exact ⟨halfSecondIfDue u, by rw [hu]; rfl⟩
  · exact ⟨_, rfl⟩

theorem snoozeEffect_some {s : State} (minutes : BitVec 8) (ha : validTime s.alarmTime = true) :
    ∃ r, snoozeEffect s minutes = some r := by
  obtain ⟨u, hu⟩ := addMinutes_some minutes.toNat ha
  unfold snoozeEffect
  split
  · simp [hu]
  · exact ⟨_, rfl⟩

/-! ### Each cell of the mode table, and each key command, has a value (R195, R117) -/

theorem map_some_of_exists {α β : Type} {o : Option α} (f : α → β) (h : ∃ a, o = some a) :
    ∃ b, o.map f = some b :=
  let ⟨a, ha⟩ := h
  ⟨f a, Option.map_eq_some_iff.2 ⟨a, ha, rfl⟩⟩

theorem acceptShowing_some {s : State} (ha : validTime s.alarmTime = true) : ∃ t, acceptShowing s = some t := by
  unfold acceptShowing
  split
  · exact map_some_of_exists _ (snoozeEffect_some _ ha)
  · split <;> exact ⟨_, rfl⟩

theorem cancelShowing_some (s : State) : ∃ t, cancelShowing s = some t := by
  unfold cancelShowing
  split
  · exact ⟨_, rfl⟩
  · split <;> exact ⟨_, rfl⟩

theorem commitTime_some (s : State) : ∃ t, commitTime s = some t := by
  unfold commitTime
  split <;> exact ⟨_, rfl⟩

theorem commitAlarm_some (s : State) : ∃ t, commitAlarm s = some t := by
  unfold commitAlarm
  split <;> exact ⟨_, rfl⟩

/-- The table of R195, cell by cell: only the edit keys and Accept in ShowingTime call a BCD routine. -/
theorem handle_some {s : State} (he : validTime s.edit = true) (ha : validTime s.alarmTime = true) :
    ∀ (m : Mode) (k : Key), ∃ t, handle s m k = some t
  | .unconfigured, .increment | .unconfigured, .decrement | .unconfigured, .accept | .unconfigured, .cancel
  | .showingTime, .increment | .showingTime, .decrement
  | .editMinutesOfTime, .startEditTime | .editMinutesOfTime, .startEditAlarm
  | .editHoursOfTime, .startEditTime | .editHoursOfTime, .startEditAlarm
  | .editMinutesOfAlarm, .startEditTime | .editMinutesOfAlarm, .startEditAlarm
  | .editHoursOfAlarm, .startEditTime | .editHoursOfAlarm, .startEditAlarm
  | .unconfigured, .startEditTime | .unconfigured, .startEditAlarm
  | .showingTime, .startEditTime | .showingTime, .startEditAlarm
  | .editMinutesOfTime, .accept | .editMinutesOfAlarm, .accept
  | .editHoursOfTime, .cancel | .editHoursOfAlarm, .cancel
  | .editMinutesOfTime, .cancel | .editMinutesOfAlarm, .cancel => ⟨_, rfl⟩
  | .showingTime, .accept => acceptShowing_some ha
  | .showingTime, .cancel => cancelShowing_some s
  | .editMinutesOfTime, .increment | .editMinutesOfAlarm, .increment =>
    map_some_of_exists _ (bcdInc_some (minutes_legal he))
  | .editMinutesOfTime, .decrement | .editMinutesOfAlarm, .decrement =>
    map_some_of_exists _ (bcdDec_some (minutes_legal he))
  | .editHoursOfTime, .increment | .editHoursOfAlarm, .increment =>
    map_some_of_exists _ (bcdInc_some (hours_legal he))
  | .editHoursOfTime, .decrement | .editHoursOfAlarm, .decrement =>
    map_some_of_exists _ (bcdDec_some (hours_legal he))
  | .editHoursOfTime, .accept => commitTime_some s
  | .editHoursOfAlarm, .accept => commitAlarm_some s

theorem handle_some_of_inv {s : State} (h : s.Inv) (m : Mode) (k : Key) : ∃ t, handle s m k = some t :=
  handle_some h.clock.edit_legal h.clock.alarm_legal m k

theorem dispatch_some {s : State} (h : s.Inv) (k : Key) : ∀ e : Edge, ∃ t, dispatch s k e = some t
  | .press => handle_some_of_inv (restartIdle_inv h) s.mode k
  | .release => ⟨_, rfl⟩

/-- Every event of a poll has a value: the one before it left a state of the invariant. -/
theorem dispatchEdges_some {s : State} (h : s.Inv) (changed levels : BitVec 6) (ks : List Key) :
    ∃ t, dispatchEdges changed levels ks s = some t := by
  induction ks generalizing s with
  | nil => exact ⟨s, rfl⟩
  | cons k ks ih =>
    unfold dispatchEdges
    split
    · obtain ⟨u, hu⟩ := dispatch_some h k (if keyLevel levels k then .press else .release)
      simpa only [hu] using ih (dispatch_inv h hu)
    · exact ih h

theorem idleTick_some {s : State} (h : s.Inv) : ∃ t, idleTick s = some t := by
  unfold idleTick
  split
  · split
    · exact handle_some_of_inv (stopIdle_inv h) s.mode .cancel
    · exact ⟨_, rfl⟩
  · exact ⟨s, rfl⟩

theorem pollKeysEffect_some {s : State} (h : s.Inv) (levels : BitVec 6) :
    ∃ t, pollKeysEffect s levels = some t := by
  have hp : State.Inv { s with keyPrev := levels } := h.of_sameBounded rfl id
  obtain ⟨u, hu⟩ := dispatchEdges_some hp (levels ^^^ s.keyPrev) levels Key.all
  simp only [pollKeysEffect, hu]
  split
  · exact idleTick_some (dispatchEdges_inv hp hu)
  · exact ⟨u, rfl⟩

/-! ### Each command, and the step, ends in a next state (R71) -/

theorem running_next {s : State} {c : Result} (hr : s.halted = false) (hc : ∃ t, c = .next t) :
    ∃ t, running s c = .next t := by
  rwa [running_of_not_halted hr]

theorem finish_next {o : Option State} (h : ∃ u, o = some u) : ∃ t, finish o = .next t :=
  let ⟨u, hu⟩ := h
  ⟨_, hu ▸ finish_some u⟩

/-- Every command answers: the halt guard lets it run, its moduli are legal, and its BCD routines have a value. -/
theorem exec_next {s : State} (h : s.Inv) (i : Instr) : ∃ t, exec i s = .next t := by
  obtain ⟨hlow, hhigh, htps⟩ := h.legal
  cases i with
  | advanceTick =>
    obtain ⟨u, hu⟩ := tickEffect_some h.clock.time_legal
    refine running_next h.running ⟨u.respond .ok u.tickCount, ?_⟩
    rw [if_neg htps, hu]
  | refresh =>
    refine running_next h.running ⟨(refreshEffect s).respond .ok 0x0000#16, ?_⟩
    rw [if_pos ((constructionSucceeds_iff _).2 ⟨hlow, hhigh⟩), answer_mk]
  | snooze minutes =>
    obtain ⟨r, hr⟩ := snoozeEffect_some minutes h.clock.alarm_legal
    refine running_next h.running ⟨r.2.respond r.1 0x0000#16, ?_⟩
    rw [hr]
    rfl
  | pollKeys levels => exact running_next h.running (finish_next (pollKeysEffect_some h levels))
  | keyEvent key edge =>
    refine running_next h.running ?_
    split
    · exact ⟨_, answer_mk _ s⟩
    · exact finish_next (dispatch_some h _ edge)
  | getTime | getAlarm | setTime | setAlarm | toggleAlarm | cancelAlarm | writeDigits | setFlashWindow | toggleDot
  | setDots | clearDots => exact running_next h.running ⟨_, rfl⟩

/-- The step answers: it waits, runs the command the next word decodes to, or answers an undefined word. -/
theorem step_next {s : State} (h : s.Inv) : ∃ t, step s = .next t := by
  cases hi : s.input with
  | nil => exact ⟨s, step_of_no_word h.running hi⟩
  | cons w rest =>
    cases hd : decode w with
    | ok i =>
      have taken : State.Inv { s with input := rest } := h.of_sameBounded rfl id
      rw [step_of_command h.running hi hd]
      exact exec_next taken i
    | error e => exact ⟨_, step_of_undefined_word h.running hi hd⟩

/-- Settles O12: the invariant has legal parameters, no halt and valid times, so no cause of a fault is met. -/
theorem runningBlockNeverStops : Obligations.RunningBlockNeverStops :=
  fun _ h => ⟨step_next h, exec_next h⟩

end Sys2Proof.Machine

namespace Sys2Proof

/-!
SUPPORT. The encoding (30_encoding.md R81-R93): a word as a row of fields, the word of a command as the only one that holds its
fields, and the decoder as the reading of those fields; then the undefined words, as the words outside every format; then what
the block answers to a word (R92, R98).
-/

/-! ### Words as rows of fields -/

/-- The fields of a word side by side, highest first, each with its length. -/
abbrev Layout := List ((n : Nat) × BitVec n)

namespace Layout

def width : Layout → Nat
  | [] => 0
  | ⟨n, _⟩ :: fs => n + width fs

/-- The number that has the fields as its bits. -/
def number : Layout → Nat
  | [] => 0
  | ⟨n, v⟩ :: fs => place n v (width fs) + number fs

/-- The low bits of `w` are the fields. -/
def HeldBy (w : Word) : Layout → Prop
  | [] => True
  | ⟨n, v⟩ :: fs => bits w (width fs) n = v ∧ HeldBy w fs

theorem number_lt : ∀ fs : Layout, number fs < 2 ^ width fs
  | [] => Nat.one_pos
  | ⟨n, v⟩ :: fs =>
    calc place n v (width fs) + number fs
        < (v.toNat + 1) * 2 ^ width fs := by rw [Nat.succ_mul]; exact Nat.add_lt_add_left (number_lt fs) _
      _ ≤ 2 ^ n * 2 ^ width fs := Nat.mul_le_mul_right _ v.isLt
      _ = 2 ^ width (⟨n, v⟩ :: fs) := (Nat.pow_add 2 n _).symm

/-- By induction on the fields: the highest one is the quotient by the width of the others, and they are the remainder. -/
theorem heldBy_iff (w : Word) : ∀ fs : Layout, fs.HeldBy w ↔ w.toNat % 2 ^ fs.width = fs.number
  | [] => by simp [HeldBy, width, number, Nat.mod_one]
  | ⟨n, v⟩ :: fs => by
    have hpos : 0 < 2 ^ width fs := Nat.two_pow_pos _
    rw [HeldBy, heldBy_iff w fs, ← BitVec.toNat_inj, bits_toNat, width, number, place, Nat.add_comm n, Nat.pow_add,
      ← Nat.mod_mul_right_div_self, ← Nat.mod_mul_right_mod w.toNat (2 ^ width fs) (2 ^ n), Nat.div_mod_unique hpos,
      and_iff_left (number_lt fs), Nat.mul_comm, Nat.add_comm, eq_comm]

end Layout

namespace Instr

/-- Bits 35:0 of the word of a command, the bits no operand uses as fields of their own (R82-R89). -/
def operandLayout : Instr → Layout
  | .advanceTick | .getTime | .getAlarm | .toggleAlarm | .cancelAlarm | .refresh => [⟨36, 0#36⟩]
  | .setTime cnt d0 d1 d2 d3 => [⟨4, cnt⟩, ⟨4, d0⟩, ⟨4, d1⟩, ⟨4, d2⟩, ⟨4, d3⟩, ⟨16, 0#16⟩]
  | .setAlarm d0 d1 d2 d3 => [⟨4, 0#4⟩, ⟨4, d0⟩, ⟨4, d1⟩, ⟨4, d2⟩, ⟨4, d3⟩, ⟨16, 0#16⟩]
  | .snooze b | .toggleDot b | .setDots b | .clearDots b => [⟨28, 0#28⟩, ⟨8, b⟩]
  | .writeDigits cnt v0 v1 v2 v3 v4 v5 v6 v7 =>
    [⟨4, cnt⟩, ⟨4, v0⟩, ⟨4, v1⟩, ⟨4, v2⟩, ⟨4, v3⟩, ⟨4, v4⟩, ⟨4, v5⟩, ⟨4, v6⟩, ⟨4, v7⟩]
  | .setFlashWindow f t factor => [⟨4, 0#4⟩, ⟨16, factor⟩, ⟨8, t⟩, ⟨8, f⟩]
  | .pollKeys levels => [⟨30, 0#30⟩, ⟨6, levels⟩]
  | .keyEvent key edge => [⟨27, 0#27⟩, ⟨1, bitOfEdge edge⟩, ⟨5, 0#5⟩, ⟨3, key⟩]

/-- The word of a command: `OP`, the reserved bits, the operand bits (R81). -/
def layout (i : Instr) : Layout := ⟨8, opcode i⟩ :: ⟨20, 0#20⟩ :: i.operandLayout

theorem operandLayout_width (i : Instr) : i.operandLayout.width = 36 := by cases i <;> rfl

theorem operandLayout_number (i : Instr) : i.operandLayout.number = operandBits i := by
  have zero (n lo : Nat) : place n 0#n lo = 0 := by simp [place]
  cases i <;> simp [operandLayout, Layout.number, Layout.width, operandBits, zero, Nat.add_assoc]

theorem layout_width (i : Instr) : i.layout.width = 64 := by
  simp [layout, Layout.width, operandLayout_width]

theorem layout_number (i : Instr) : i.layout.number = place 8 (opcode i) 56 + operandBits i := by
  simp [layout, Layout.number, Layout.width, operandLayout_width, operandLayout_number, place]

theorem layout_heldBy_iff (w : Word) (i : Instr) : i.layout.HeldBy w ↔
    bits w 56 8 = opcode i ∧ bits w 36 20 = 0#20 ∧ i.operandLayout.HeldBy w := by
  simp [layout, Layout.HeldBy, Layout.width, operandLayout_width]

end Instr

/-- The word of a command is the one word that holds its fields. -/
theorem encode_eq_iff_heldBy (w : Word) (i : Instr) : encode i = w ↔ i.layout.HeldBy w := by
  have hn := i.layout.number_lt
  rw [i.layout_width] at hn
  rw [Layout.heldBy_iff, i.layout_width, Nat.mod_eq_of_lt w.isLt, encode, ← i.layout_number, ← BitVec.toNat_inj,
    BitVec.toNat_ofNat, Nat.mod_eq_of_lt hn, eq_comm]

/-! ### The decoder reads the fields -/

/-- A check of the decoder is passed. -/
theorem ite_error_eq_ok_iff {ε α : Type} {c : Prop} [Decidable c] {x : Except ε α} {e : ε} {a : α} :
    (if c then x else .error e) = .ok a ↔ c ∧ x = .ok a := by
  by_cases hc : c <;> simp [hc]

theorem heldBy_of_decodeOpcode {w : Word} {i : Instr} (h : decodeOpcode w = .ok i) :
    i.wellFormed = true ∧ bits w 56 8 = opcode i ∧ i.operandLayout.HeldBy w := by
  unfold decodeOpcode at h
  split at h <;> rename_i hop
  case h_1 | h_2 | h_4 | h_6 | h_8 | h_10 => -- format N
    obtain ⟨hz, ⟨⟩⟩ := ite_error_eq_ok_iff.1 h
    exact ⟨rfl, BitVec.eq_of_toNat_eq hop, hz, trivial⟩
  case h_7 | h_12 | h_13 | h_14 | h_15 => -- formats B and K
    obtain ⟨hz, ⟨⟩⟩ := ite_error_eq_ok_iff.1 h
    exact ⟨rfl, BitVec.eq_of_toNat_eq hop, hz, rfl, trivial⟩
  case h_3 => -- format D4
    obtain ⟨hz, ⟨⟩⟩ := ite_error_eq_ok_iff.1 h
    exact ⟨rfl, BitVec.eq_of_toNat_eq hop, rfl, rfl, rfl, rfl, rfl, hz, trivial⟩
  case h_5 => -- format A
    obtain ⟨⟨hcnt, hz⟩, ⟨⟩⟩ := ite_error_eq_ok_iff.1 h
    exact ⟨rfl, BitVec.eq_of_toNat_eq hop, hcnt, rfl, rfl, rfl, rfl, hz, trivial⟩
  case h_9 => -- format D8
    obtain ⟨⟩ := h
    exact ⟨rfl, BitVec.eq_of_toNat_eq hop, rfl, rfl, rfl, rfl, rfl, rfl, rfl, rfl, rfl, trivial⟩
  case h_11 => -- format W
    obtain ⟨hz, ⟨⟩⟩ := ite_error_eq_ok_iff.1 h
    exact ⟨rfl, BitVec.eq_of_toNat_eq hop, hz, rfl, rfl, rfl, trivial⟩
  case h_16 => -- format E
    obtain ⟨⟨hhigh, hmid⟩, h⟩ := ite_error_eq_ok_iff.1 h
    obtain ⟨hkey, ⟨⟩⟩ := ite_error_eq_ok_iff.1 h
    exact ⟨hkey, BitVec.eq_of_toNat_eq hop, hhigh, (bitOfEdge_edgeOfBit _).symm, hmid, rfl, trivial⟩
  case h_17 => cases h -- no command

theorem decodeOpcode_of_heldBy {w : Word} {i : Instr} (hw : i.wellFormed = true) (hop : bits w 56 8 = opcode i)
    (h : i.operandLayout.HeldBy w) : decodeOpcode w = .ok i := by
  rw [decodeOpcode, hop]
  cases i with
  | advanceTick | getTime | getAlarm | toggleAlarm | cancelAlarm | refresh =>
    exact ite_error_eq_ok_iff.2 ⟨h.1, rfl⟩
  | snooze | toggleDot | setDots | clearDots | pollKeys =>
    obtain ⟨hz, rfl, -⟩ := h
    exact ite_error_eq_ok_iff.2 ⟨hz, rfl⟩
  | setTime =>
    obtain ⟨rfl, rfl, rfl, rfl, rfl, hz, -⟩ := h
    exact ite_error_eq_ok_iff.2 ⟨hz, rfl⟩
  | setAlarm =>
    obtain ⟨hcnt, rfl, rfl, rfl, rfl, hz, -⟩ := h
    exact ite_error_eq_ok_iff.2 ⟨⟨hcnt, hz⟩, rfl⟩
  | writeDigits =>
    obtain ⟨rfl, rfl, rfl, rfl, rfl, rfl, rfl, rfl, rfl, -⟩ := h
    rfl
  | setFlashWindow =>
    obtain ⟨hz, rfl, rfl, rfl, -⟩ := h
    exact ite_error_eq_ok_iff.2 ⟨hz, rfl⟩
  | keyEvent key edge =>
    obtain ⟨hhigh, hdir, hmid, rfl, -⟩ := h
    obtain rfl : edgeOfBit (bits w 8 1) = edge := (congrArg edgeOfBit hdir).trans (edgeOfBit_bitOfEdge edge)
    exact ite_error_eq_ok_iff.2 ⟨⟨hhigh, hmid⟩, ite_error_eq_ok_iff.2 ⟨hw, rfl⟩⟩

theorem decodeOpcode_eq_ok_iff (w : Word) (i : Instr) : decodeOpcode w = .ok i ↔
    i.wellFormed = true ∧ bits w 56 8 = opcode i ∧ i.operandLayout.HeldBy w :=
  ⟨heldBy_of_decodeOpcode, fun ⟨hw, hop, h⟩ => decodeOpcode_of_heldBy hw hop h⟩

/-- The decoder and the encoder are one relation between words and well-formed commands. -/
theorem decode_eq_ok_iff (w : Word) (i : Instr) : decode w = .ok i ↔ i.wellFormed = true ∧ encode i = w := by
  rw [decode, ite_error_eq_ok_iff, decodeOpcode_eq_ok_iff, encode_eq_iff_heldBy, Instr.layout_heldBy_iff]
  tauto

/-- Settles O1: the word of a command holds the command's fields, and the decoder reads those. -/
theorem decodeEncodeRoundTrip : Obligations.DecodeEncodeRoundTrip :=
  fun i hi => (decode_eq_ok_iff (encode i) i).2 ⟨hi, rfl⟩

/-- Settles O2: the decoder checks every bit it does not read, so a word it reads holds all the fields of the command. -/
theorem decodedWordEncodesBack : Obligations.DecodedWordEncodesBack :=
  fun w i => (decode_eq_ok_iff w i).1

/-! ### The undefined words (R92) -/

/-- The format of KEY_EVENT (R89): `OP`, and the fields (lowest bit, length) of bits 35:0 that no operand uses. -/
def keyFormat : Nat × List (Nat × Nat) := (0x21, [(9, 27), (3, 5)])

/-- The formats of the commands, written so (R82-R90), in the order of the opcode table's rows. -/
def formats : List (Nat × List (Nat × Nat)) :=
  [(0x01, [(0, 36)]), (0x02, [(0, 36)]), (0x03, [(0, 16)]), (0x04, [(0, 36)]), (0x05, [(32, 4), (0, 16)]),
    (0x06, [(0, 36)]), (0x07, [(8, 28)]), (0x08, [(0, 36)]), (0x10, []), (0x11, [(0, 36)]), (0x12, [(32, 4)]),
    (0x13, [(8, 28)]), (0x14, [(8, 28)]), (0x15, [(8, 28)]), (0x20, [(6, 30)]), keyFormat]

/-- The word has the opcode of the format, and 0 in the reserved bits and in every field the format does not use. -/
def InFormat (w : Word) (r : Nat × List (Nat × Nat)) : Prop :=
  (bits w 56 8).toNat = r.1 ∧ bits w 36 20 = 0#20 ∧ r.2.Forall fun f => bits w f.1 f.2 = 0#f.2

/-- Each row of the table masks the opcode, the reserved bits and the unused fields of its format, and asks 0 of the last two. -/
theorem opcodeRows_zip_formats : ∀ p ∈ Stated.opcodeRows.zip formats,
    p.1.1 &&& p.1.2 = p.1.1 ∧
      (∀ i : Fin 64, p.1.2.getLsbD i = true ↔
        ∃ f ∈ (56, 8) :: (36, 20) :: p.2.2, f.1 ≤ i.val ∧ i.val < f.1 + f.2) ∧
      (∀ f ∈ (56, 8) :: (36, 20) :: p.2.2, f.1 + f.2 ≤ 64) ∧
      (bits p.1.1 56 8).toNat = p.2.1 ∧ bits p.1.1 36 20 = 0#20 ∧ ∀ f ∈ p.2.2, bits p.1.1 f.1 f.2 = 0#f.2 := by
  decide

theorem row_matches_iff (w : Word) {p : (Word × Word) × Nat × List (Nat × Nat)}
    (hp : p ∈ Stated.opcodeRows.zip formats) : w &&& p.1.2 = p.1.1 ↔ InFormat w p.2 := by
  obtain ⟨hv, hm, hle, hop, hres, hz⟩ := opcodeRows_zip_formats p hp
  rw [and_eq_iff_fields w _ _ hv _ hm hle, List.forall_mem_cons, List.forall_mem_cons, ← BitVec.toNat_inj, hop,
    hres, InFormat, List.forall_iff_forall_mem, forall₂_congr fun f hf => by rw [hz f hf]]

theorem exists_row_matches_iff (w : Word) :
    (∃ row ∈ Stated.opcodeRows, w &&& row.2 = row.1) ↔ ∃ r ∈ formats, InFormat w r := by
  have hrows : Stated.opcodeRows = (Stated.opcodeRows.zip formats).map Prod.fst := rfl
  have hformats : formats = (Stated.opcodeRows.zip formats).map Prod.snd := rfl
  rw [hrows, hformats]
  simp only [List.mem_map, exists_exists_and_eq_and]
  exact exists_congr fun p => and_congr_right fun hp => row_matches_iff w hp

/-- The words the decoder reads, opcode by opcode: those of a format, but for KEY_EVENT with a key that does not exist. -/
theorem exists_decode_eq_ok_iff (w : Word) : (∃ i, decode w = .ok i) ↔
    (∃ r ∈ formats, InFormat w r) ∧ (InFormat w keyFormat → keyNumberOk (bits w 0 3) = true) := by
  by_cases hres : bits w 36 20 = 0#20
  · rw [decode, if_pos hres, decodeOpcode]
    split
    case h_17 => simp_all [formats, InFormat, keyFormat]
    all_goals simp +contextual [*, formats, InFormat, keyFormat, ite_error_eq_ok_iff, decodeNone, decodeByte,
      decodeSetTime, decodeSetAlarm, decodeWriteDigits, decodeSetFlashWindow, decodePollKeys, decodeKeyEvent]
  · simp [decode, hres, InFormat]

theorem keyNumberOk_bits_iff (w : Word) : keyNumberOk (bits w 0 3) = true ↔ ¬ 6 ≤ (w &&& 7#64).toNat := by
  have hand : (w &&& 7#64).toNat = w.toNat % 2 ^ 3 := by
    rw [BitVec.toNat_and]
    exact Nat.and_two_pow_sub_one_eq_mod _ 3
  simp only [keyNumberOk, hand, bits_toNat, decide_eq_true_eq]
  omega

theorem exists_decode_eq_ok_iff_not_undefinedWord (w : Word) :
    (∃ i, decode w = .ok i) ↔ ¬ Stated.undefinedWord w := by
  have hkey := row_matches_iff w (p := ((0x2100000000000000#64, 0xFFFFFFFFFFFFFEF8#64), keyFormat)) (by decide)
  rw [exists_decode_eq_ok_iff, ← exists_row_matches_iff, ← hkey, keyNumberOk_bits_iff, Stated.undefinedWord, not_or,
    not_and]
  simp only [ne_eq, not_forall, not_not, exists_prop]

theorem exists_decode_eq_error_iff (w : Word) : (∃ e, decode w = .error e) ↔ Stated.undefinedWord w := by
  rw [← not_iff_not, ← exists_decode_eq_ok_iff_not_undefinedWord]
  cases decode w <;> simp

end Sys2Proof

namespace Sys2Proof.Machine

/-! ### What the block answers -/

/-- Settles O3: the formats are the table's rows, and the step answers a word of none of them. -/
theorem undefinedWordsAnswered : Obligations.UndefinedWordsAnswered := by
  refine fun w => ⟨exists_decode_eq_error_iff w, fun s rest hr hi hw => ?_⟩
  obtain ⟨e, he⟩ := (exists_decode_eq_error_iff w).2 hw
  exact step_of_undefined_word hr hi he

/-- The data of the response to a command that leads from `s` to `t` (R98). -/
def responseData (s t : State) : Instr → BitVec 16
  | .advanceTick => t.tickCount
  | .getTime => s.time.packed
  | .getAlarm => s.alarmTime.packed
  | _ => 0x0000#16

/-- From `s` to `t` the block emits events that are no responses, and then one response with the data. -/
def AnsweredWith (s t : State) (data : BitVec 16) : Prop :=
  ∃ (events : List Event) (status : Status),
    t.trace = s.trace ++ events ++ [.response status data] ∧ ∀ e ∈ events, Stated.isResponse e = false

theorem exec_answeredWith {i : Instr} {s t : State} (h : exec i s = .next t) :
    AnsweredWith s t (responseData s t i) := by
  by_cases hi : i = .advanceTick
  · subst hi
    obtain ⟨-, u, hu, rfl⟩ := execAdvanceTick_eq_next h
    obtain ⟨-, -, -, -, -, -, -, ⟨-, htr⟩ | ⟨-, htr⟩⟩ := tickEffect_spec hu
    · exact ⟨[.alarmNotify true], .ok, by rw [respond_trace, htr]; rfl, by simp [Stated.isResponse]⟩
    · exact ⟨[], .ok, by rw [respond_trace, htr, List.append_nil]; rfl, by simp⟩
  by_cases hr : i = .refresh
  · subst hr
    obtain ⟨-, rfl⟩ := execRefresh_eq_next h
    rw [refreshEffect_eq]
    exact ⟨_, .ok, rfl, by simp [Stated.isResponse]⟩
  · obtain ⟨u, st, data, hu, ht, rfl⟩ := exec_cases h hi hr
    obtain ⟨n, hn⟩ := hu.quiet.trace
    refine ⟨List.replicate n (.alarmNotify false), st, ?_, fun e he => by rw [List.eq_of_mem_replicate he]; rfl⟩
    rw [ht, respond_trace, hn]
    cases i with
    | advanceTick => exact absurd rfl hi
    | refresh => exact absurd rfl hr
    | _ => rfl

/-- Settles O14: a step with a word runs its command, which answers so, or answers the undefined word itself. -/
theorem oneResponseLast : Obligations.OneResponseLast := by
  intro s w rest hi
  refine ⟨fun hh t h => ?_, fun t h => ?_⟩
  · rw [step, running_of_halted hh] at h
    cases h
  · have hr := (step_cases h).1
    cases hd : decode w with
    | ok i =>
      rw [step_of_command hr hi hd] at h
      have answered := exec_answeredWith h
      cases i <;> exact answered
    | error e =>
      rw [step_of_undefined_word hr hi hd] at h
      rw [answer_eq_next h]
      exact ⟨[], .undefinedCommand, by simp, by simp⟩

/-- Settles O4: each line is read, assembled and decoded. -/
theorem workedEncodings : Obligations.WorkedEncodings := by
  unfold Obligations.WorkedEncodings
  decide

theorem keyOfNumber_eq_none {key : BitVec 3} (h : 6 ≤ key.toNat) : keyOfNumber key = none := by
  refine List.find?_eq_none.2 fun k _ => ?_
  have hk : k.number ≤ 5 := by cases k <;> decide
  simp only [decide_eq_true_eq]
  omega

/-- Settles O57: no key has the number, so the command answers as the undefined word does. -/
theorem seventhKeyIsUndefined : Obligations.SeventhKeyIsUndefined := by
  intro s key edge hr hk
  show running s _ = _
  rw [running_of_not_halted hr, keyOfNumber_eq_none hk]
  rfl

end Sys2Proof.Machine

namespace Sys2Proof.Machine

/-!
SUPPORT. The clock (40_clock.md): what the BCD routines do to the number a field stands for (R110-R117), what a tick does in each
of its cases (R120-R125), and what each clock command answers (R130-R136).
-/

/-! ### Fields as numbers (R110, R114) -/

theorem legalField_iff_fieldValue_le {limits : Limits} (hl : limits.2.toNat ≤ 9) (f : Field) :
    legalField f limits = true ↔ f.2.toNat ≤ 9 ∧ fieldValue f ≤ fieldValue limits := by
  simp only [legalField, fieldValue, decide_eq_true_eq, ← BitVec.toNat_inj]
  omega

theorem fieldValue_inj {f g : Field} (hf : f.2.toNat ≤ 9) (hg : g.2.toNat ≤ 9)
    (h : fieldValue f = fieldValue g) : f = g := by
  unfold fieldValue at h
  exact Prod.ext (BitVec.eq_of_toNat_eq (by omega)) (BitVec.eq_of_toNat_eq (by omega))

/-- The increment is addition modulo the field's modulus, and wraps exactly at the top (R111, R114). -/
theorem bcdInc_value {f : Field} {limits : Limits} {r : Field × Bool} (hl : limits.2.toNat ≤ 9)
    (h : bcdInc f limits = some r) :
    fieldValue r.1 = (fieldValue f + 1) % (fieldValue limits + 1) ∧
      (r.2 = true ↔ fieldValue f = fieldValue limits) := by
  unfold bcdInc at h
  split at h
  · rename_i hf
    obtain ⟨hu, hle⟩ := (legalField_iff_fieldValue_le hl f).1 hf
    split at h <;> rename_i htop
    · obtain rfl := Option.some.inj h
      have : f = limits := Prod.ext htop.1 htop.2
      simp [this, fieldValue]
    · have hlt : fieldValue f < fieldValue limits :=
        lt_of_le_of_ne hle fun e => htop (Prod.ext_iff.1 (fieldValue_inj hu hl e))
      rw [Nat.mod_eq_of_lt (by omega)]
      have := limits.1.isLt
      simp only [fieldValue] at hlt ⊢
      split at h <;> rename_i h9 <;> obtain rfl := Option.some.inj h <;>
        simp only [← BitVec.toNat_inj, BitVec.toNat_ofNat, BitVec.toNat_add, Bool.false_eq_true,
          false_iff] at h9 ⊢ <;>
        omega
  · cases h

/-- The decrement is subtraction of one modulo the field's modulus (R112, R114). -/
theorem bcdDec_value {f g : Field} {limits : Limits} (hl : limits.2.toNat ≤ 9)
    (h : bcdDec f limits = some g) :
    fieldValue g = (fieldValue f + fieldValue limits) % (fieldValue limits + 1) := by
  unfold bcdDec at h
  split at h
  · rename_i hf
    obtain ⟨hu, hle⟩ := (legalField_iff_fieldValue_le hl f).1 hf
    split at h <;> rename_i hzero
    · obtain rfl := Option.some.inj h
      have : fieldValue f = 0 := by simp [fieldValue, hzero.1, hzero.2]
      rw [this, Nat.zero_add, Nat.mod_eq_of_lt (Nat.lt_succ_self _)]
    · have hpos : fieldValue f ≠ 0 := fun e =>
        hzero (Prod.ext_iff.1 (fieldValue_inj (g := (0#4, 0#4)) hu (by decide) e))
      have hmod : (fieldValue f + fieldValue limits) % (fieldValue limits + 1) = fieldValue f - 1 := by
        rw [show fieldValue f + fieldValue limits = fieldValue f - 1 + (fieldValue limits + 1) by omega,
          Nat.add_mod_right, Nat.mod_eq_of_lt (by omega)]
      rw [hmod]
      have := f.1.isLt
      simp only [fieldValue] at hpos ⊢
      split at h <;> rename_i h9 <;> obtain rfl := Option.some.inj h <;>
        simp only [← BitVec.toNat_inj, BitVec.toNat_ofNat, BitVec.toNat_sub] at h9 ⊢ <;> omega
  · cases h

/-! ### The routines undo each other (R114) -/

/-- A decrement that counts back to a legal field's number is that field. -/
theorem bcdDec_bcdInc {f : Field} {limits : Limits} {r : Field × Bool} (hl : limits.2.toNat ≤ 9)
    (hf : legalField f limits = true) (h : bcdInc f limits = some r) : bcdDec r.1 limits = some f := by
  obtain ⟨hu, hle⟩ := (legalField_iff_fieldValue_le hl f).1 hf
  obtain ⟨g, hg⟩ := bcdDec_some (bcdInc_legal hl h)
  have hgu := ((legalField_iff_fieldValue_le hl g).1 (bcdDec_legal hg)).1
  have hv : fieldValue g = fieldValue f := by
    rw [bcdDec_value hl hg, (bcdInc_value hl h).1, Nat.mod_add_mod, Nat.add_assoc, Nat.add_comm 1,
      Nat.add_mod_right, Nat.mod_eq_of_lt (Nat.lt_succ_of_le hle)]
  rw [hg, fieldValue_inj hgu hu hv]

theorem bcdInc_bcdDec {f g : Field} {limits : Limits} (hl : limits.2.toNat ≤ 9)
    (hf : legalField f limits = true) (h : bcdDec f limits = some g) :
    (bcdInc g limits).map Prod.fst = some f := by
  obtain ⟨hu, hle⟩ := (legalField_iff_fieldValue_le hl f).1 hf
  obtain ⟨r, hr⟩ := bcdInc_some (bcdDec_legal h)
  have hru := ((legalField_iff_fieldValue_le hl r.1).1 (bcdInc_legal hl hr)).1
  have hv : fieldValue r.1 = fieldValue f := by
    rw [(bcdInc_value hl hr).1, bcdDec_value hl h, Nat.mod_add_mod, Nat.add_assoc, Nat.add_mod_right,
      Nat.mod_eq_of_lt (Nat.lt_succ_of_le hle)]
  rw [hr, Option.map_some, fieldValue_inj hru hu hv]

/-- One increment of a field that may have no value. -/
def incOption (limits : Limits) (o : Option Field) : Option Field :=
  o.bind fun g => (bcdInc g limits).map Prod.fst

/-- One decrement of a field that may have no value. -/
def decOption (limits : Limits) (o : Option Field) : Option Field := o.bind fun g => bcdDec g limits

/-- A value, and a legal one. -/
def LegalOption (limits : Limits) (o : Option Field) : Prop := ∃ f, o = some f ∧ legalField f limits = true

theorem decOption_incOption {limits : Limits} (hl : limits.2.toNat ≤ 9) (o : Option Field)
    (ho : LegalOption limits o) :
    LegalOption limits (incOption limits o) ∧ decOption limits (incOption limits o) = o := by
  obtain ⟨f, rfl, hf⟩ := ho
  obtain ⟨r, hr⟩ := bcdInc_some hf
  have e : incOption limits (some f) = some r.1 := by simp [incOption, hr]
  rw [e]
  exact ⟨⟨r.1, rfl, bcdInc_legal hl hr⟩, bcdDec_bcdInc hl hf hr⟩

theorem incOption_decOption {limits : Limits} (hl : limits.2.toNat ≤ 9) (o : Option Field)
    (ho : LegalOption limits o) :
    LegalOption limits (decOption limits o) ∧ incOption limits (decOption limits o) = o := by
  obtain ⟨f, rfl, hf⟩ := ho
  obtain ⟨g, hg⟩ := bcdDec_some hf
  have e : decOption limits (some f) = some g := hg
  rw [e]
  exact ⟨⟨g, rfl, bcdDec_legal hg⟩, bcdInc_bcdDec hl hf hg⟩

/-- What one `G` undoes of one `F`, `k` of them undo of `k`. -/
theorem iterate_undoes {α : Type} {P : α → Prop} {F G : α → α} (h : ∀ a, P a → P (F a) ∧ G (F a) = a)
    (k : Nat) {a : α} (ha : P a) : G^[k] (F^[k] a) = a := by
  induction k generalizing a with
  | zero => rfl
  | succ k ih =>
    obtain ⟨hF, hGF⟩ := h a ha
    rw [Function.iterate_succ_apply F, Function.iterate_succ_apply', ih hF, hGF]

/-- Settles O21: both routines are arithmetic on the field's number, which determines a legal field. -/
theorem bcdLaws : Obligations.BcdLaws := by
  have limitPairs : ∀ p ∈ [(minuteLimits, 60), (hourLimits, 24)],
      p.1.2.toNat ≤ 9 ∧ p.2 = fieldValue p.1 + 1 := by decide
  rintro ⟨limits, m⟩ hp f hf
  obtain ⟨hl, rfl⟩ : limits.2.toNat ≤ 9 ∧ m = fieldValue limits + 1 := limitPairs _ hp
  have legal : LegalOption limits (some f) := ⟨f, rfl, hf⟩
  refine ⟨?_, ?_, fun k => ?_⟩
  · obtain ⟨⟨g, w⟩, hg⟩ := bcdInc_some hf
    obtain ⟨hv, hw⟩ := bcdInc_value hl hg
    exact ⟨g, w, hg, bcdInc_legal hl hg, hv, hw, bcdDec_bcdInc hl hf hg⟩
  · obtain ⟨g, hg⟩ := bcdDec_some hf
    exact ⟨g, hg, bcdDec_legal hg, bcdDec_value hl hg, bcdInc_bcdDec hl hf hg⟩
  · exact ⟨iterate_undoes (decOption_incOption hl) k legal, iterate_undoes (incOption_decOption hl) k legal⟩

/-! ### Times (R115, R116) -/

theorem fieldValue_minutes_le {t : Time} (ht : validTime t = true) : fieldValue t.minutes ≤ 59 :=
  ((legalField_iff_fieldValue_le (limits := minuteLimits) (by decide) _).1 (minutes_legal ht)).2

theorem fieldValue_hours_le {t : Time} (ht : validTime t = true) : fieldValue t.hours ≤ 23 :=
  ((legalField_iff_fieldValue_le (limits := hourLimits) (by decide) _).1 (hours_legal ht)).2

theorem minuteOfDay_lt {t : Time} (ht : validTime t = true) : t.minuteOfDay < 1440 := by
  have hmin := fieldValue_minutes_le ht
  have hhour := fieldValue_hours_le ht
  unfold Time.minuteOfDay
  omega

/-- One minute later on the clock is one more modulo the minutes of a day: the minute's carry is the hour's step. -/
theorem timeInc1_minuteOfDay {t u : Time} (ht : validTime t = true) (h : timeInc1 t = some u) :
    u.minuteOfDay = (t.minuteOfDay + 1) % 1440 := by
  have hmin := fieldValue_minutes_le ht
  have hhour := fieldValue_hours_le ht
  have minute : ∀ {r}, bcdInc t.minutes minuteLimits = some r →
      fieldValue r.1 = (fieldValue t.minutes + 1) % 60 ∧ (r.2 = true ↔ fieldValue t.minutes = 59) :=
    bcdInc_value (by decide)
  unfold timeInc1 at h
  split at h
  · cases h
  · rename_i m hm
    obtain rfl := Option.some.inj h
    obtain ⟨hv, hw⟩ := minute hm
    simp only [Time.minuteOfDay, withMinutes_hours, withMinutes_minutes, Bool.false_eq_true, false_iff] at hv hw ⊢
    omega
  · rename_i m hm
    split at h
    · cases h
    · rename_i g c hg
      obtain rfl := Option.some.inj h
      obtain ⟨hv, hw⟩ := minute hm
      have hhv : fieldValue g = (fieldValue t.hours + 1) % 24 := (bcdInc_value (by decide) hg).1
      simp only [Time.minuteOfDay, withHours_hours, withHours_minutes, withMinutes_minutes, true_iff] at hv hw ⊢
      omega

/-- Settles O23: a valid time has a next minute, valid and one minute later. -/
theorem timeIncrement : Obligations.TimeIncrement := by
  intro t ht
  obtain ⟨u, hu⟩ := timeInc1_some ht
  exact ⟨u, hu, timeInc1_valid ht hu, timeInc1_minuteOfDay ht hu⟩

theorem addMinutes_minuteOfDay {n : Nat} {t u : Time} (ht : validTime t = true)
    (h : addMinutes n t = some u) : u.minuteOfDay = (t.minuteOfDay + n) % 1440 := by
  induction n generalizing t with
  | zero =>
    obtain rfl := Option.some.inj h
    exact (Nat.mod_eq_of_lt (minuteOfDay_lt ht)).symm
  | succ n ih =>
    unfold addMinutes at h
    split at h
    · cases h
    · rename_i v hv
      rw [ih (timeInc1_valid ht hv) h, timeInc1_minuteOfDay ht hv, Nat.mod_add_mod, Nat.add_right_comm,
        Nat.add_assoc]

theorem validTime_iff_digits (t : Time) :
    validTime t = true ↔ t.hourTens.toNat ≤ 2 ∧ t.hourUnits.toNat ≤ 9 ∧
      (t.hourTens = 2#4 → t.hourUnits.toNat ≤ 3) ∧ t.minuteTens.toNat ≤ 5 ∧ t.minuteUnits.toNat ≤ 9 := by
  simp only [validTime, decide_eq_true_eq, ← BitVec.toNat_inj, BitVec.toNat_ofNat]
  omega

/-- Settles O24: the predicate's own digit limits, and those of the two legal fields. -/
theorem validationPredicate : Obligations.ValidationPredicate :=
  fun t => ⟨validTime_iff_digits t, validTime_iff_legalField t⟩


/-! ### The tick (R120) -/

theorem countTick_tickCount_toNat {s : State} (h : s.params.ticksPerSecond ≠ 0#16) :
    (countTick s).tickCount.toNat = Stated.nextTick s :=
  have hlt : Stated.nextTick s < s.params.ticksPerSecond.toNat :=
    Nat.mod_lt _ (BitVec.toNat_pos_of_ne_zero h)
  (BitVec.toNat_ofNat _ _).trans (Nat.mod_eq_of_lt (hlt.trans s.params.ticksPerSecond.isLt))

theorem countTick_tickCount_eq_zero_iff {s : State} (h : s.params.ticksPerSecond ≠ 0#16) :
    (countTick s).tickCount = 0#16 ↔ Stated.nextTick s = 0 := by
  rw [← BitVec.toNat_inj, countTick_tickCount_toNat h]
  rfl

theorem exec_advanceTick_of_some {s u : State} (hr : s.halted = false)
    (h : s.params.ticksPerSecond ≠ 0#16) (hu : tickEffect s = some u) :
    exec .advanceTick s = .next (u.respond .ok u.tickCount) := by
  show running s _ = _
  rw [running_of_not_halted hr, if_neg h, hu]

theorem exec_advanceTick_of_none {s : State} (hr : s.halted = false)
    (h : s.params.ticksPerSecond ≠ 0#16) (hu : tickEffect s = none) :
    exec .advanceTick s = .fault .illegalBcdField := by
  show running s _ = _
  rw [running_of_not_halted hr, if_neg h, hu]

/-- The counters after a tick that rolls no minute over. -/
def countersWithinMinute (s : State) : State :=
  { countTick s with seconds := if Stated.nextTick s = 0 then s.seconds + 1#6 else s.seconds }

theorem tickEffect_within_minute {s : State} (h : s.params.ticksPerSecond ≠ 0#16)
    (hn : ¬ (Stated.nextTick s = 0 ∧ s.seconds = 59#6)) :
    tickEffect s = some (halfSecondIfDue (countersWithinMinute s)) := by
  unfold tickEffect countersWithinMinute
  simp only [countTick_tickCount_eq_zero_iff h]
  by_cases h0 : Stated.nextTick s = 0
  · have hs : ¬ (countTick s).seconds = 59#6 := fun e => hn ⟨h0, e⟩
    rw [if_pos h0, if_pos h0, secondElapsed, if_neg hs]
    rfl
  · rw [if_neg h0, if_neg h0]
    rfl

/-- The last tick of a minute, whether or not the time has a next minute. -/
theorem tickEffect_last_of_minute {s : State} (h : s.params.ticksPerSecond ≠ 0#16)
    (h0 : Stated.nextTick s = 0) (hs : s.seconds = 59#6) :
    tickEffect s = (minuteRollover { countTick s with seconds := 0#6 }).map halfSecondIfDue := by
  have hs' : (countTick s).seconds = 59#6 := hs
  simp only [tickEffect, countTick_tickCount_eq_zero_iff h]
  rw [if_pos h0, secondElapsed, if_pos hs']

/-- The registers after the rollover to the time `u`, with the alarm checked against it (R121, R123). -/
def registersRolledOver (s : State) (u : Time) : State :=
  { s with
    tickCount := 0#16
    seconds := 0#6
    time := u
    ringing := s.ringing || (s.alarmEn && (u = s.alarmTime : Bool))
    trace := s.trace ++ if s.alarmEn = true ∧ u = s.alarmTime then [.alarmNotify true] else [] }

theorem tickEffect_rolls_over {s : State} {u : Time} (h : s.params.ticksPerSecond ≠ 0#16)
    (h0 : Stated.nextTick s = 0) (hs : s.seconds = 59#6) (hu : timeInc1 s.time = some u) :
    tickEffect s = some (halfSecondIfDue (minuteDisplayUpdate (registersRolledOver s u))) := by
  have hc : checkAlarm { countTick s with seconds := 0#6, time := u } = registersRolledOver s u := by
    rw [checkAlarm_eq, (countTick_tickCount_eq_zero_iff h).2 h0]
    rfl
  have hu' : timeInc1 (countTick s).time = some u := hu
  rw [tickEffect_last_of_minute h h0 hs]
  simp only [minuteRollover, hu', hc, Option.map_some]

/-- Settles O22: the routines have a value on legal fields alone, and the rollover has none without its minute's increment. -/
theorem illegalFieldFaults : Obligations.IllegalFieldFaults := by
  refine ⟨fun f limits hf => ⟨(bcdInc_eq_none_iff f limits).2 hf, (bcdDec_eq_none_iff f limits).2 hf⟩,
    fun s hr h h0 hs hf => exec_advanceTick_of_none hr h ?_⟩
  have hm : bcdInc (countTick s).time.minutes minuteLimits = none := (bcdInc_eq_none_iff _ _).2 hf
  rw [tickEffect_last_of_minute h h0 hs]
  simp only [minuteRollover, timeInc1, hm, Option.map_none]

/-- Settles O27: both commands test their modulus before anything else. -/
theorem zeroModulusFaults : Obligations.ZeroModulusFaults := by
  refine fun s hr => ⟨fun h => ?_, fun h => ?_⟩ <;> show running s _ = _ <;> rw [running_of_not_halted hr]
  · rw [if_pos h]
  · have hc : ¬ constructionSucceeds s.params = true := by
      rw [constructionSucceeds_iff, maxDigits]
      omega
    rw [if_neg hc]

/-! ### The display under a tick (R122, R124) -/

theorem buf_frame_trans {s t u : State} (h : { t with buf := s.buf } = s) (h' : { u with buf := t.buf } = t) :
    { u with buf := s.buf } = s := by
  rw [← h'] at h; exact h

theorem ite_xor_eq {p : Prop} [Decidable p] (b m : Byte) :
    (if p then b ^^^ m else b) = b ^^^ if p then m else 0x00#8 := by
  split
  · rfl
  · exact BitVec.xor_zero.symm

theorem bufRead_halfSecondIfDue (s : State) (i : Nat) :
    (halfSecondIfDue s).bufRead i =
      if i = s.params.separatorDigit.toNat ∧ i < s.params.digitCount ∧ atHalfSecond s = true then
        s.bufRead i ^^^ 0x80#8
      else s.bufRead i := by
  unfold halfSecondIfDue halfSecond
  split
  · rename_i hd
    simp only [bufRead_toggleDotEffect, hd, and_true]
    by_cases hi : i = s.params.separatorDigit.toNat <;> simp [hi]
  · rename_i hd
    rw [if_neg fun c => hd c.2.2]

/-- What an entry reads as after a valid time is shown, in the words of the statements (R198). -/
theorem bufRead_showDigits_eq_entryAfterShow {d : Time} (s : State) (h : validTime d = true) (i : Nat) :
    (showDigits s d).bufRead i = Stated.entryAfterShow s d i := by
  rw [bufRead_showDigits s h]
  simp only [entryOf_dotOf]
  match i with
  | 0 | 1 | 2 | 3 => rfl
  | i + 4 => simp [Time.digits, Stated.entryAfterShow]

theorem minuteDisplayUpdate_buf_frame {s : State} (h : validTime s.time = true) :
    { minuteDisplayUpdate s with buf := s.buf } = s := by
  unfold minuteDisplayUpdate
  split
  · exact showDigits_frame s h
  · rfl

theorem bufRead_minuteDisplayUpdate {s : State} (h : validTime s.time = true) (i : Nat) :
    (minuteDisplayUpdate s).bufRead i =
      if s.mode = .showingTime then Stated.entryAfterShow s s.time i else s.bufRead i := by
  unfold minuteDisplayUpdate
  split
  · exact bufRead_showDigits_eq_entryAfterShow s h i
  · rfl

/-- Settles O25: the half-second event follows the counters, and touches the buffer alone. -/
theorem tickWithinMinute : Obligations.TickWithinMinute := by
  intro s hr h hn
  refine ⟨_, exec_advanceTick_of_some hr h (tickEffect_within_minute h hn), ?_, fun i => ?_⟩
  · exact congrArg (fun u : State => u.respond .ok u.tickCount) (halfSecondIfDue_frame (countersWithinMinute s))
  · have due : atHalfSecond (countersWithinMinute s) = true ↔
        Stated.nextTick s = 0 ∨ Stated.nextTick s = s.params.ticksPerSecond.toNat / 2 := by
      rw [← countTick_tickCount_toNat h]
      exact decide_eq_true_iff
    rw [bufRead_respond, bufRead_halfSecondIfDue]
    simp only [due]
    rfl

/-- Settles O26: the rollover writes the registers, then the display shows the new time, then the dot flips at count 0. -/
theorem tickRollsMinuteOver : Obligations.TickRollsMinuteOver := by
  intro s hr h h0 hs ht
  obtain ⟨u, hu⟩ := timeInc1_some ht
  have hv : validTime (registersRolledOver s u).time = true := timeInc1_valid ht hu
  refine ⟨_, u, exec_advanceTick_of_some hr h (tickEffect_rolls_over h h0 hs hu), hv,
    timeInc1_minuteOfDay ht hu, ?_, fun i => ?_⟩
  · exact congrArg (fun t : State => t.respond .ok t.tickCount)
      (buf_frame_trans (minuteDisplayUpdate_buf_frame hv) (halfSecondIfDue_frame _))
  · have due : atHalfSecond (minuteDisplayUpdate (registersRolledOver s u)) = true := by
      simp [atHalfSecond, registersRolledOver]
    rw [bufRead_respond, bufRead_halfSecondIfDue, bufRead_minuteDisplayUpdate hv, minuteDisplayUpdate_params]
    simp only [due, and_true, ite_xor_eq]
    rfl

/-! ### The alarm notification (R125) -/

/-- No command but the tick starts a ring. -/
theorem exec_no_alarmNotify {i : Instr} {s t : State} (h : exec i s = .next t) (hi : i ≠ .advanceTick) :
    ∃ events, t.trace = s.trace ++ events ∧ .alarmNotify true ∉ events := by
  by_cases hr : i = .refresh
  · subst hr
    obtain ⟨-, rfl⟩ := execRefresh_eq_next h
    rw [refreshEffect_eq, respond_trace, List.append_assoc]
    exact ⟨_, rfl, by simp⟩
  · obtain ⟨u, st, data, hu, rfl, -⟩ := exec_cases h hi hr
    obtain ⟨n, hn⟩ := hu.quiet.trace
    rw [respond_trace, hn, List.append_assoc]
    exact ⟨_, rfl, by simp [List.mem_replicate]⟩

/-- Settles O20: the tick emits the event where it rings the alarm, and no other command emits it. -/
theorem alarmFiresExactly : Obligations.AlarmFiresExactly := by
  intro i s t h
  by_cases hi : i = .advanceTick
  · subst hi
    obtain ⟨hp, u, hu, rfl⟩ := execAdvanceTick_eq_next h
    have rings : tickRings s u ↔ Stated.nextTick s = 0 ∧ s.seconds = 59#6 ∧ s.alarmEn = true ∧
        u.time = s.alarmTime := by
      rw [tickRings, countTick_tickCount_eq_zero_iff hp]
    obtain ⟨-, -, -, -, -, -, -, ⟨hring, htr⟩ | ⟨hring, htr⟩⟩ := tickEffect_spec hu <;>
      rw [rings] at hring <;> rw [respond_trace, htr]
    · exact ⟨_, List.append_assoc .., by simp, by simpa using hring⟩
    · exact ⟨_, rfl, by simp, by simpa using hring⟩
  · obtain ⟨events, htr, hn⟩ := exec_no_alarmNotify h hi
    exact ⟨events, htr, by simp [List.count_eq_zero_of_not_mem hn], by simp [hn, hi]⟩

/-! ### The clock commands (R130-R136) -/

/-- Settles O28: a block that is not halted runs the getter, which only answers. -/
theorem gettersAnswer : Obligations.GettersAnswer :=
  fun _ hr => ⟨running_of_not_halted hr _, running_of_not_halted hr _⟩

/-- Settles O30: the command accepts the count 4 and a time the validation predicate accepts. -/
theorem setTimeResult : Obligations.SetTimeResult := by
  intro s cnt d0 d1 d2 d3 hr
  show running s _ = _
  rw [running_of_not_halted hr, setTimeEffect]
  simp only [validTime_iff_digits]
  split <;> rfl

/-- Settles O31: the command accepts a time the validation predicate accepts. -/
theorem setAlarmResult : Obligations.SetAlarmResult := by
  intro s d0 d1 d2 d3 hr
  show running s _ = _
  rw [running_of_not_halted hr, setAlarmEffect]
  simp only [validTime_iff_digits]
  split <;> rfl

/-- Settles O32: the flag's flip is the whole effect. -/
theorem toggleAlarmResult : Obligations.ToggleAlarmResult := fun _ hr => running_of_not_halted hr _

theorem exec_snooze_of_some {s : State} {minutes : BitVec 8} {r : Status × State} (hr : s.halted = false)
    (h : snoozeEffect s minutes = some r) : exec (.snooze minutes) s = answer r := by
  show running s _ = _
  rw [running_of_not_halted hr, h]

theorem snoozeEffect_of_not_ringing {s : State} (minutes : BitVec 8) (h : s.ringing = false) :
    snoozeEffect s minutes = some (.notReady, s) := by
  simp [snoozeEffect, h]

theorem snoozeEffect_of_ringing {s : State} {minutes : BitVec 8} {u : Time} (h : s.ringing = true)
    (hu : addMinutes minutes.toNat s.alarmTime = some u) :
    snoozeEffect s minutes = some (.ok, { s with alarmTime := u }.stopRing) := by
  simp [snoozeEffect, h, hu]

/-- Settles O33: `time_inc1`, once for each of the minutes, is their addition modulo a day. -/
theorem snoozeResult : Obligations.SnoozeResult := by
  refine fun s minutes hr =>
    ⟨fun hn => exec_snooze_of_some hr (snoozeEffect_of_not_ringing minutes hn), fun hring ht => ?_⟩
  obtain ⟨u, hu⟩ := addMinutes_some minutes.toNat ht
  refine ⟨u, addMinutes_valid ht hu, addMinutes_minuteOfDay ht hu, ?_⟩
  rw [exec_snooze_of_some hr (snoozeEffect_of_ringing hring hu), answer_mk]
  simp [State.respond, State.stopRing, State.emit]

/-- What CANCEL_ALARM does (R136): it stops the ring, or leaves the state as it is. -/
theorem cancelAlarmEffect_eq (s : State) :
    cancelAlarmEffect s =
      { s with
        ringing := false
        trace := s.trace ++ if s.ringing then [.alarmNotify false] else [] } := by
  unfold cancelAlarmEffect
  split
  · rfl
  · rename_i h
    have h : false = s.ringing := (Bool.eq_false_of_not_eq_true h).symm
    rw [List.append_nil, h]

/-- Settles O34: the ring is stopped, with its notification, or there is none to stop. -/
theorem cancelAlarmResult : Obligations.CancelAlarmResult := by
  intro s hr
  show running s _ = _
  rw [running_of_not_halted hr, cancelAlarmEffect_eq]
  rfl

end Sys2Proof.Machine

namespace Sys2Proof.Machine

/-!
SUPPORT. The display (41_display.md): which commands the driver hears of (R159), what each display command does to the buffer
(R151, R156-R158) and to the flash window (R155), and the scan with its flash cycle (R152-R154).
-/

/-! ### Who drives the display (R159) -/

/-- Settles O19: the tick and every quiet effect emit notifications alone, and the response goes to the host. -/
theorem onlyRefreshDrives : Obligations.OnlyRefreshDrives := by
  intro i s t h hr
  by_cases hi : i = .advanceTick
  · subst hi
    obtain ⟨-, u, hu, rfl⟩ := execAdvanceTick_eq_next h
    obtain ⟨-, -, -, -, -, -, -, ⟨-, htr⟩ | ⟨-, htr⟩⟩ := tickEffect_spec hu <;> rw [respond_trace, htr]
    · exact ⟨_, List.append_assoc .., by simp [Stated.isDriverEvent]⟩
    · exact ⟨_, rfl, by simp [Stated.isDriverEvent]⟩
  · obtain ⟨u, st, data, hu, rfl, -⟩ := exec_cases h hi hr
    obtain ⟨n, hn⟩ := hu.quiet.trace
    rw [respond_trace, hn, List.append_assoc]
    exact ⟨_, rfl, by simp [List.mem_replicate, or_imp, forall_and, Stated.isDriverEvent]⟩

/-! ### The buffer commands (R151, R156-R158) -/

theorem entryOf_dotOf_eq_entryShowing {s : State} {b : Byte} {v : Digit} {segments : Segments}
    (h : segments = (s.params.segTable[v.toNat]?).getD 0#7) :
    entryOf (dotOf b) segments = Stated.entryShowing s b v := by
  rw [entryOf_dotOf, h]
  rfl

/-- The entries WRITE_DIGITS writes: the lanes below the count and `N` (R151). -/
theorem bufRead_writeDigitsEffect_written {s : State} {cnt i : Nat} {vs : List Digit} {v : Digit}
    (hv : vs[i]? = some v) (hc : i < cnt) (hN : i < s.params.digitCount) :
    ∃ segments, (writeDigitsEffect s cnt vs).bufRead i = entryOf (dotOf (s.bufRead i)) segments ∧
      (v.toNat < 10 → segments = (s.params.segTable[v.toNat]?).getD 0#7) := by
  have lane : (vs.take (min cnt s.params.digitCount))[i - 0]? = some v := by
    rw [Nat.sub_zero, List.getElem?_take_of_lt (lt_min hc hN), hv]
  exact bufRead_writeSegmentsFrom_written s 0 _ i v (Nat.zero_le i) lane hN

/-- The entries WRITE_DIGITS leaves alone (R151). -/
theorem bufRead_writeDigitsEffect_untouched {s : State} {cnt i : Nat} {vs : List Digit}
    (h : cnt ≤ i ∨ s.params.digitCount ≤ i ∨ vs.length ≤ i) :
    (writeDigitsEffect s cnt vs).bufRead i = s.bufRead i := by
  have beyond : 0 + (vs.take (min cnt s.params.digitCount)).length ≤ i := by
    rw [List.length_take]
    omega
  exact bufRead_writeSegmentsFrom_untouched s 0 _ i (.inr (.inl beyond))

/-- Settles O35: the effect's frame and its entries, with the response after it. -/
theorem writeDigitsResult : Obligations.WriteDigitsResult := by
  intro s cnt v0 v1 v2 v3 v4 v5 v6 v7 hr
  refine ⟨_, running_of_not_halted hr _, ?_, fun i v hv hc hN => ?_, fun i h => ?_⟩
  · exact congrArg (fun u : State => u.respond .ok 0x0000#16) (writeDigitsEffect_frame s cnt.toNat _)
  · obtain ⟨segments, hread, hpattern⟩ := bufRead_writeDigitsEffect_written hv hc hN
    rw [bufRead_respond, hread]
    exact ⟨entryOf_and_dot _ _, fun h9 => entryOf_dotOf_eq_entryShowing (hpattern (Nat.lt_succ_of_le h9))⟩
  · exact bufRead_writeDigitsEffect_untouched h

/-- Settles O40: the flip is one write, which an index at or above `N` suppresses. -/
theorem toggleDotResult : Obligations.ToggleDotResult := by
  intro s index hr
  refine ⟨_, running_of_not_halted hr _, ?_, fun i => ?_⟩
  · exact congrArg (fun u : State => u.respond .ok 0x0000#16) (toggleDotEffect_frame s index.toNat)
  · rw [bufRead_respond, bufRead_toggleDotEffect]
    by_cases hi : i = index.toNat <;> simp [hi]

/-- The state after dots are forced, and its entries, for a command that answers OK (R157, R158). -/
theorem forceDots_result (s : State) (dot : BitVec 1) (mask : Byte) :
    let t := (forceDots s dot mask s.params.digitCount).respond .ok 0x0000#16
    { t with buf := s.buf } = { s with trace := s.trace ++ [.response .ok 0x0000#16] } ∧
      ∀ i, t.bufRead i =
        if i < s.params.digitCount ∧ mask.getLsbD i = true then entryOf dot (segmentsOf (s.bufRead i))
        else s.bufRead i :=
  ⟨congrArg (fun u : State => u.respond .ok 0x0000#16) (forceDots_frame s dot mask s.params.digitCount),
    bufRead_forceDots s dot mask s.params.digitCount le_rfl⟩

/-- Settles O41: a dot forced on is bit 7 set. -/
theorem setDotsResult : Obligations.SetDotsResult := by
  intro s mask hr
  obtain ⟨hframe, hread⟩ := forceDots_result s 1#1 mask
  simp only [entryOf_one] at hread
  exact ⟨_, running_of_not_halted hr _, hframe, hread⟩

/-- Settles O42: a dot forced off is bit 7 cleared. -/
theorem clearDotsResult : Obligations.ClearDotsResult := by
  intro s mask hr
  obtain ⟨hframe, hread⟩ := forceDots_result s 0#1 mask
  simp only [entryOf_zero] at hread
  exact ⟨_, running_of_not_halted hr _, hframe, hread⟩

/-! ### The flash window (R153, R155) -/

theorem flashOff_eq_true_iff (s : State) (a : Nat) :
    flashOff s a = true ↔
      s.flashFactor ≠ 0#16 ∧ s.flashFrom.toNat ≤ a ∧ a ≤ s.flashTo.toNat ∧
        s.flashFactor.toNat / 2 < s.flashCount.toNat :=
  decide_eq_true_iff

/-- Settles O37: the counter stays below the factor, so for a factor up to 2 it never passes the half. -/
theorem flashNeverOff : Obligations.FlashNeverOff := by
  intro s a hs h
  refine Bool.eq_false_of_not_eq_true fun hoff => ?_
  obtain ⟨hx, hfrom, hto, hhalf⟩ := (flashOff_eq_true_iff s a).1 hoff
  have := hs.display.count_lt hx
  omega

theorem toNat_ofNat_of_lt {w n : Nat} (h : n < 2 ^ w) : (BitVec.ofNat w n).toNat = n :=
  (BitVec.toNat_ofNat n w).trans (Nat.mod_eq_of_lt h)

/-- Settles O39: a window of at most `N` digits fits its registers. -/
theorem setFlashWindowResult : Obligations.SetFlashWindowResult := by
  intro s f t factor hr hN
  have stored (n : Nat) :
      (BitVec.ofNat 4 (n % (s.params.digitCount + 1))).toNat = n % (s.params.digitCount + 1) := by
    have hlt : n % (s.params.digitCount + 1) < s.params.digitCount + 1 := Nat.mod_lt n (Nat.succ_pos _)
    exact toNat_ofNat_of_lt (by omega)
  exact ⟨_, _, stored f.toNat, stored t.toNat, running_of_not_halted hr _⟩

/-! ### The scan (R152, R154) -/

/-- The digit the next REFRESH drives (R152). -/
def nextDigit (s : State) : Nat := (s.activeDigit.toNat + 1) % s.params.digitCount

/-- `FLASH_COUNT` after the next REFRESH (R152). -/
def nextFlashCount (s : State) : Nat :=
  if s.flashFactor ≠ 0#16 ∧ nextDigit s = 0 then (s.flashCount.toNat + 1) % s.flashFactor.toNat
  else s.flashCount.toNat

theorem advanceScan_activeDigit_toNat {s : State} (h : constructionSucceeds s.params = true) :
    (advanceScan s).activeDigit.toNat = nextDigit s := by
  obtain ⟨hlow, hhigh⟩ := (constructionSucceeds_iff _).1 h
  have hlt : nextDigit s < s.params.digitCount := Nat.mod_lt _ hlow
  exact toNat_ofNat_of_lt (hlt.trans_le hhigh)

theorem nextFlashCount_lt (s : State) : nextFlashCount s < 2 ^ 16 := by
  unfold nextFlashCount
  split
  · rename_i h
    exact (Nat.mod_lt _ (BitVec.toNat_pos_of_ne_zero h.1)).trans s.flashFactor.isLt
  · exact s.flashCount.isLt

theorem stepFlashCount_advanceScan {s : State} (h : constructionSucceeds s.params = true) :
    stepFlashCount (advanceScan s) =
      { advanceScan s with flashCount := BitVec.ofNat 16 (nextFlashCount s) } := by
  have at_zero : (advanceScan s).activeDigit = 0#3 ↔ nextDigit s = 0 := by
    rw [← BitVec.toNat_inj, advanceScan_activeDigit_toNat h]
    rfl
  rw [stepFlashCount_eq]
  simp only [at_zero, nextFlashCount, advanceScan_flashFactor, advanceScan_flashCount]
  split <;> simp

theorem exec_refresh {s : State} (hr : s.halted = false) (h : constructionSucceeds s.params = true) :
    exec .refresh s = .next ((refreshEffect s).respond .ok 0x0000#16) := by
  show running s _ = _
  rw [running_of_not_halted hr, if_pos h, answer_mk]

/-- What the next REFRESH shows of its digit: its dot alone in the off half of the flash cycle (R152, R153). -/
theorem shownByte_stepFlashCount_advanceScan {s : State} (h : constructionSucceeds s.params = true) :
    shownByte (stepFlashCount (advanceScan s)) (nextDigit s) =
      if s.flashFactor ≠ 0#16 ∧ s.flashFrom.toNat ≤ nextDigit s ∧ nextDigit s ≤ s.flashTo.toNat ∧
          s.flashFactor.toNat / 2 < nextFlashCount s
      then s.bufRead (nextDigit s) &&& 0x80#8 else s.bufRead (nextDigit s) := by
  have hcount : (BitVec.ofNat 16 (nextFlashCount s)).toNat = nextFlashCount s :=
    toNat_ofNat_of_lt (nextFlashCount_lt s)
  rw [stepFlashCount_advanceScan h, shownByte]
  simp only [flashOff_eq_true_iff, hcount]
  rfl

/-- Settles O36: the scan and the counter step first, and the byte shown is that of the stepped registers. -/
theorem refreshResult : Obligations.RefreshResult := by
  intro s hr hlow hhigh
  have hc : constructionSucceeds s.params = true := (constructionSucceeds_iff _).2 ⟨hlow, hhigh⟩
  have hindex : (advanceScan s).activeDigit.setWidth 8 = BitVec.ofNat 8 (nextDigit s) := by
    rw [← advanceScan_activeDigit_toNat hc]
    exact (BitVec.ofNat_toNat ..).symm
  rw [exec_refresh hr hc, refreshEffect_eq, hindex, advanceScan_activeDigit_toNat hc,
    shownByte_stepFlashCount_advanceScan hc, stepFlashCount_advanceScan hc]
  simp only [State.respond, State.emit, List.append_assoc]
  rfl

/-- `t` is reached from `s` by events that drive the digits `ds`, in their order. -/
def Drives (s t : State) (ds : List Nat) : Prop :=
  ∃ events, t.trace = s.trace ++ events ∧ events.filterMap Stated.drivenDigit = ds

theorem Drives.trans {s t u : State} {ds es : List Nat} (h : Drives s t ds) (h' : Drives t u es) :
    Drives s u (ds ++ es) := by
  obtain ⟨events, htr, rfl⟩ := h
  obtain ⟨events', htr', rfl⟩ := h'
  exact ⟨events ++ events', by rw [htr', htr, List.append_assoc], List.filterMap_append⟩

/-- The `k` digits that follow ACTIVE_DIGIT in cyclic order (R154). -/
def digitsAhead (s : State) (k : Nat) : List Nat :=
  (List.range k).map fun j => (s.activeDigit.toNat + 1 + j) % s.params.digitCount

theorem digitsAhead_succ {s t : State} (hp : t.params = s.params) (ha : t.activeDigit.toNat = nextDigit s) (k : Nat) :
    digitsAhead s (k + 1) = nextDigit s :: digitsAhead t k := by
  unfold digitsAhead
  rw [List.range_succ_eq_map, List.map_cons, List.map_map, hp, ha]
  refine congrArg (nextDigit s :: ·) (List.map_congr_left fun j _ => ?_)
  simp only [Function.comp_apply, nextDigit, Nat.succ_eq_add_one, Nat.add_assoc, Nat.mod_add_mod, Nat.add_comm 1 j]

/-- A step on a REFRESH word takes it and drives the next digit (R152). -/
theorem step_of_refresh_word {s : State} {rest : List Word} (h : s.Inv)
    (hi : s.input = encode .refresh :: rest) :
    ∃ t, step s = .next t ∧ t.input = rest ∧ t.params = s.params ∧ t.activeDigit.toNat = nextDigit s ∧
      Drives s t [nextDigit s] := by
  obtain ⟨hlow, hhigh, -⟩ := h.legal
  have hc : constructionSucceeds s.params = true := (constructionSucceeds_iff _).2 ⟨hlow, hhigh⟩
  have hdigit := advanceScan_activeDigit_toNat hc
  have hindex : ((advanceScan s).activeDigit.setWidth 8).toNat = nextDigit s :=
    (BitVec.toNat_setWidth_of_le (by decide)).trans hdigit
  have hstep := step_of_command h.running hi (decodeEncodeRoundTrip .refresh rfl)
  rw [exec_refresh (s := { s with input := rest }) h.running hc, refreshEffect_eq] at hstep
  exact ⟨_, hstep, rfl, rfl, hdigit, _, List.append_assoc .., congrArg (fun d => [d]) hindex⟩

theorem run_succ_of_step {s t : State} (h : step s = .next t) (k : Nat) :
    Host.Core.run Sys2Proof.core (k + 1) s = Host.Core.run Sys2Proof.core k t := by
  have h : Sys2Proof.core.step s = .next t := h
  simp only [Host.Core.run, h]

/-- Each REFRESH drives the next digit, and leaves the scan there for those after it. -/
theorem run_refresh_words (k : Nat) {s : State} {rest : List Word} (h : s.Inv)
    (hi : s.input = List.replicate k (encode .refresh) ++ rest) :
    ∃ t, Host.Core.run Sys2Proof.core k s = .next t ∧ t.input = rest ∧ Drives s t (digitsAhead s k) := by
  induction k generalizing s with
  | zero => exact ⟨s, rfl, hi, [], (List.append_nil _).symm, rfl⟩
  | succ k ih =>
    obtain ⟨u, hstep, hin, hp, ha, hfirst⟩ := step_of_refresh_word h hi
    obtain ⟨t, hrun, hrest, hlater⟩ := ih (step_inv h hstep) hin
    rw [run_succ_of_step hstep, digitsAhead_succ hp ha]
    exact ⟨t, hrun, hrest, hfirst.trans hlater⟩

/-- Settles O38: the events of the run are those behind the trace it began with. -/
theorem scanVisitsDigitsInOrder : Obligations.ScanVisitsDigitsInOrder := by
  intro k s rest h hi
  obtain ⟨t, hrun, hrest, events, htr, hdigits⟩ := run_refresh_words k h hi
  refine ⟨t, hrun, hrest, ?_⟩
  rw [htr, List.drop_left]
  exact hdigits

end Sys2Proof.Machine

namespace Sys2Proof.Machine

/-!
SUPPORT. The keypad and the modes (42_keypad_mode.md): where any command can lead the mode (R220, R221), what a poll is in
terms of the events it dispatches (R190-R194), what each cell of the mode table answers (R200-R219), and the idle timeout
(R222).
-/

/-! ### Where a command leads the mode (R220, R221) -/

/-- What every command keeps to: `CLOCK_VALID` is not cleared, ShowingTime is not entered while no time is set, nor
Unconfigured once one is. -/
structure State.ModeLaw (s t : State) : Prop where
  valid : s.clockValid = true → t.clockValid = true
  showing : t.mode = .showingTime → s.mode = .showingTime ∨ t.clockValid = true
  unconfigured : s.clockValid = true → t.mode = .unconfigured → s.mode = .unconfigured

theorem State.ModeLaw.of_eq {s t : State} (hv : t.clockValid = s.clockValid) (hm : t.mode = s.mode) : s.ModeLaw t :=
  ⟨hv.trans, fun e => .inl (hm ▸ e), fun _ e => hm ▸ e⟩

theorem exec_modeLaw {i : Instr} {s t : State} (h : exec i s = .next t) : s.ModeLaw t := by
  by_cases hi : i = .advanceTick
  · subst hi
    obtain ⟨-, u, hu, rfl⟩ := execAdvanceTick_eq_next h
    obtain ⟨-, -, -, hv, hm, -⟩ := tickEffect_spec hu
    exact .of_eq hv hm
  by_cases hr : i = .refresh
  · subst hr
    obtain ⟨-, rfl⟩ := execRefresh_eq_next h
    rw [refreshEffect_eq]
    exact .of_eq rfl rfl
  · obtain ⟨u, st, data, hu, rfl, -⟩ := exec_cases h hi hr
    exact ⟨hu.quiet.valid, hu.showing, hu.unconfigured⟩

theorem step_modeLaw {s t : State} (h : step s = .next t) : s.ModeLaw t := by
  obtain ⟨-, ⟨-, rfl⟩ | ⟨w, rest, -, ⟨i, -, he⟩ | ⟨-, rfl⟩⟩⟩ := step_cases h
  · exact .of_eq rfl rfl
  · obtain ⟨hv, hs, hu⟩ := exec_modeLaw he
    exact ⟨hv, hs, hu⟩
  · exact .of_eq rfl rfl

/-- Settles O17: every command keeps the mode law, so the step does. -/
theorem unconfiguredLeftForGood : Obligations.UnconfiguredLeftForGood :=
  fun _ _ hv h => ⟨(step_modeLaw h).valid hv, mt ((step_modeLaw h).unconfigured hv)⟩

/-- Settles O18: of the two ways into ShowingTime the mode law leaves, one is excluded. -/
theorem noShowingTimeWithoutTime : Obligations.NoShowingTimeWithoutTime :=
  fun _ _ _ h hs ht => ((exec_modeLaw h).showing ht).resolve_left hs

/-! ### A poll as its events (R190-R193) -/

/-- The event of one key in a poll, if its level changed (R190, R191). -/
def edgeOf (previous levels : BitVec 6) (k : Key) : Option (Key × Edge) :=
  if keyLevel levels k = keyLevel previous k then none
  else some (k, if keyLevel levels k then .press else .release)

theorem pollEvents_eq (previous levels : BitVec 6) :
    Stated.pollEvents previous levels = Key.all.filterMap (edgeOf previous levels) := rfl

/-- The delivery of one event, where those before it had a value. -/
def deliverEvent (o : Option State) (e : Key × Edge) : Option State := o.bind fun s => dispatch s e.1 e.2

theorem foldl_deliverEvent_none (es : List (Key × Edge)) : es.foldl deliverEvent none = none := by
  induction es with
  | nil => rfl
  | cons e es ih => exact ih

theorem keyLevel_xor (levels previous : BitVec 6) (k : Key) :
    keyLevel (levels ^^^ previous) k = true ↔ keyLevel levels k ≠ keyLevel previous k := by
  simp [keyLevel, BitVec.getLsbD_xor]

/-- The scan over the keys delivers their events in order. -/
theorem dispatchEdges_eq_foldl (previous levels : BitVec 6) (ks : List Key) (s : State) :
    dispatchEdges (levels ^^^ previous) levels ks s =
      (ks.filterMap (edgeOf previous levels)).foldl deliverEvent (some s) := by
  induction ks generalizing s with
  | nil => rfl
  | cons k ks ih =>
    rw [dispatchEdges]
    simp only [keyLevel_xor]
    by_cases hk : keyLevel levels k = keyLevel previous k
    · have no_event : edgeOf previous levels k = none := if_pos hk
      rw [if_neg (not_not_intro hk), List.filterMap_cons_none no_event, ih]
    · have event : edgeOf previous levels k = some (k, if keyLevel levels k then .press else .release) := if_neg hk
      rw [if_pos hk, List.filterMap_cons_some event, List.foldl_cons, deliverEvent, Option.bind_some]
      split <;> rename_i hd <;> rw [hd]
      · exact (foldl_deliverEvent_none _).symm
      · exact ih _

/-- A poll delivers its events, and runs the idle timer if there is none (R190). -/
theorem pollKeysEffect_eq (s : State) (levels : BitVec 6) :
    pollKeysEffect s levels =
      ((Stated.pollEvents s.keyPrev levels).foldl deliverEvent (some { s with keyPrev := levels })).bind fun s' =>
        if levels = s.keyPrev then idleTick s' else some s' := by
  simp only [pollKeysEffect, dispatchEdges_eq_foldl, BitVec.xor_eq_zero_iff, pollEvents_eq]
  split <;> rename_i hd <;> rw [hd] <;> rfl

/-- Settles O43: the scan over all keys delivers the poll's events. -/
theorem pollDispatchesEdges : Obligations.PollDispatchesEdges := by
  intro s levels hr
  show running s _ = _
  rw [running_of_not_halted hr, pollKeysEffect_eq]
  rfl

theorem Key.number_injective : Function.Injective Key.number := fun j k h => by
  have hk : (keyOfNumber (BitVec.ofNat 3 j.number)) = some k := h ▸ keyOfNumber_number k
  exact Option.some.inj ((keyOfNumber_number j).symm.trans hk)

theorem Key.number_lt (k : Key) : k.number < 6 := by cases k <;> decide

theorem Key.exists_number_eq (n : Fin 6) : ∃ k : Key, k.number = n :=
  have listed : ∀ n : Fin 6, ∃ k ∈ Key.all, k.number = n := by decide
  (listed n).imp fun _ hk => hk.2

/-- A poll in which one key's level changes has that key's event alone. -/
theorem pollEvents_eq_singleton {previous levels : BitVec 6} {k : Key}
    (h : ∀ j, keyLevel levels j = keyLevel previous j ↔ j ≠ k) :
    Stated.pollEvents previous levels = [(k, if keyLevel levels k then .press else .release)] := by
  have only (j : Key) : edgeOf previous levels j =
      if j = k then some (k, if keyLevel levels k then .press else .release) else none := by
    by_cases hj : j = k
    · subst hj
      rw [edgeOf, if_neg fun e => (h j).1 e rfl, if_pos rfl]
    · rw [edgeOf, if_pos ((h j).2 hj), if_neg hj]
  rw [pollEvents_eq, List.filterMap_congr fun j _ => only j]
  cases k <;> rfl

/-- Settles O44: the one event of the poll is delivered as the KEY_EVENT delivers it, and the idle timer does not run. -/
theorem singleEdgePollIsKeyEvent : Obligations.SingleEdgePollIsKeyEvent := by
  intro s levels n h
  obtain ⟨k, hk⟩ := Key.exists_number_eq n
  have changed (j : Key) : keyLevel levels j = keyLevel s.keyPrev j ↔ j ≠ k := by
    have hj := h ⟨j.number, j.number_lt⟩
    rwa [Ne, Fin.ext_iff, ← hk, Key.number_injective.eq_iff] at hj
  have some_changed : levels ≠ s.keyPrev := fun e => (changed k).1 (e ▸ rfl) rfl
  rw [← hk]
  show running s (finish (pollKeysEffect s levels)) = running s _
  rw [pollKeysEffect_eq, pollEvents_eq_singleton changed, keyOfNumber_number]
  simp only [if_neg some_changed, Option.bind_fun_some]
  rfl

theorem pollEvents_self (levels : BitVec 6) : Stated.pollEvents levels levels = [] := by
  simp [Stated.pollEvents]

/-- A poll with unchanged levels is a tick of the idle timer (R190, R222). -/
theorem exec_pollKeys_keyPrev {s : State} (hr : s.halted = false) :
    exec (.pollKeys s.keyPrev) s = finish (idleTick s) := by
  show running s _ = _
  rw [running_of_not_halted hr, pollKeysEffect_eq, pollEvents_self]
  simp

/-! ### A key event, and the cell of the table it runs (R192-R195) -/

theorem respond_restartIdle (s : State) : (restartIdle s).respond .ok 0x0000#16 = Stated.keyed s := by
  rw [restartIdle_eq]
  rfl

@[simp] theorem restartIdle_time (s : State) : (restartIdle s).time = s.time := by rw [restartIdle_eq]

@[simp] theorem restartIdle_alarmTime (s : State) : (restartIdle s).alarmTime = s.alarmTime := by rw [restartIdle_eq]

@[simp] theorem restartIdle_edit (s : State) : (restartIdle s).edit = s.edit := by rw [restartIdle_eq]

theorem restartIdle_of_not_edit {s : State} (h : s.mode.isEdit = false) : restartIdle s = s := by
  simp [restartIdle, h]

/-- Settles O46: the dispatch of a release is the restart of the idle timer. -/
theorem releaseRunsNoHandler : Obligations.ReleaseRunsNoHandler := by
  intro s k hr
  show running s _ = _
  rw [running_of_not_halted hr, keyOfNumber_number, ← respond_restartIdle]
  rfl

/-- A press answers OK in the state its cell leaves. -/
theorem exec_press_of_handle {s u : State} {k : Key} (hr : s.halted = false)
    (h : handle (restartIdle s) s.mode k = some u) :
    exec (.keyEvent (BitVec.ofNat 3 k.number) .press) s = .next (u.respond .ok 0x0000#16) := by
  rw [exec_press hr, h, finish_some]

/-- A press whose cell leaves the state as it is. -/
theorem exec_press_of_handle_self {s : State} {k : Key} (hr : s.halted = false)
    (h : handle (restartIdle s) s.mode k = some (restartIdle s)) :
    exec (.keyEvent (BitVec.ofNat 3 k.number) .press) s = .next (Stated.keyed s) := by
  rw [exec_press_of_handle hr h, respond_restartIdle]

/-- The cells of R204, R205 and R210. -/
theorem handle_of_no_transition (s : State) {m : Mode} {k : Key}
    (h : (m = .unconfigured ∧ k ∈ [.increment, .decrement, .accept, .cancel]) ∨
      (m = .showingTime ∧ k ∈ [.increment, .decrement]) ∨
      (m.isEdit = true ∧ k ∈ [.startEditTime, .startEditAlarm])) :
    handle s m k = some s := by
  rcases h with ⟨rfl, hk⟩ | ⟨rfl, hk⟩ | ⟨hm, hk⟩
  · fin_cases hk <;> rfl
  · fin_cases hk <;> rfl
  · cases m with
    | unconfigured | showingTime => cases hm
    | editMinutesOfTime | editHoursOfTime | editMinutesOfAlarm | editHoursOfAlarm => fin_cases hk <;> rfl

/-- Settles O47: those cells leave the state as it is. -/
theorem noTransitionCells : Obligations.NoTransitionCells :=
  fun _ _ hr h => exec_press_of_handle_self hr (handle_of_no_transition _ h)

/-! ### What the display shows after a cell (R198) -/

theorem showDigits_showsFrom {d : Time} (s : State) (h : validTime d = true) : Stated.ShowsFrom s (showDigits s d) d :=
  ⟨showDigits_frame s h, bufRead_showDigits_eq_entryAfterShow s h⟩

theorem showsFrom_respond {s t : State} {d : Time} (h : Stated.ShowsFrom s t d) (st : Status) (data : BitVec 16) :
    Stated.ShowsFrom (s.respond st data) (t.respond st data) d :=
  ⟨congrArg (fun u : State => u.respond st data) h.1, h.2⟩

theorem showsFrom_flashMinutes {s t : State} {d : Time} (h : Stated.ShowsFrom s t d) :
    Stated.ShowsFrom (flashMinutes s) (flashMinutes t) d :=
  ⟨congrArg flashMinutes h.1, h.2⟩

theorem flashClear_eq (s : State) :
    flashClear s = { s with flashFrom := 0#4, flashTo := 0#4, flashFactor := 0#16, flashCount := 0#16 } := by
  simp [flashClear, setFlashEffect]

/-- Leaving an edit shows the time that was set, or 00:00 where none was (R198). -/
theorem leaveEdit_leavesEdit {s : State} (h : s.clockValid = true → validTime s.time = true) :
    Stated.LeavesEdit s (leaveEdit s) := by
  unfold leaveEdit Stated.LeavesEdit
  rw [flashClear_eq]
  split
  · exact showDigits_showsFrom _ (h ‹_›)
  · exact showDigits_showsFrom _ validTime_zero

/-- The answer after an edit is left. -/
theorem leaveEdit_respond_leavesEdit {s : State} (h : s.clockValid = true → validTime s.time = true) :
    Stated.LeavesEdit (s.respond .ok 0x0000#16) ((leaveEdit s).respond .ok 0x0000#16) :=
  showsFrom_respond (leaveEdit_leavesEdit h) .ok 0x0000#16

/-! ### The edit keys (R200-R203) -/

/-- The step of a field by Increment or Decrement. -/
def stepField (k : Key) (limits : Limits) (f : Field) : Option Field :=
  if k = .increment then (bcdInc f limits).map Prod.fst else bcdDec f limits

theorem stepField_spec (k : Key) {limits : Limits} {f : Field} (hl : limits.2.toNat ≤ 9)
    (hf : legalField f limits = true) :
    ∃ g, stepField k limits f = some g ∧ legalField g limits = true ∧
      fieldValue g = (fieldValue f + if k = .increment then 1 else fieldValue limits) % (fieldValue limits + 1) := by
  unfold stepField
  split
  · obtain ⟨r, hr⟩ := bcdInc_some hf
    exact ⟨r.1, by rw [hr]; rfl, bcdInc_legal hl hr, (bcdInc_value hl hr).1⟩
  · obtain ⟨g, hg⟩ := bcdDec_some hf
    exact ⟨g, hg, bcdDec_legal hg, bcdDec_value hl hg⟩

/-- Both keys in both minutes variants step the minutes of the edit buffer and show it (R200, R202). -/
theorem handle_edit_minutes (s : State) {m : Mode} {k : Key} (hm : m = .editMinutesOfTime ∨ m = .editMinutesOfAlarm)
    (hk : k = .increment ∨ k = .decrement) :
    handle s m k =
      (stepField k minuteLimits s.edit.minutes).map fun g => editAndShow s (s.edit.withMinutes g) := by
  rcases hk with rfl | rfl
  · rw [stepField, if_pos rfl, Option.map_map]
    rcases hm with rfl | rfl <;> rfl
  · rcases hm with rfl | rfl <;> rfl

/-- Both keys in both hours variants step the hours of the edit buffer and show it (R201, R203). -/
theorem handle_edit_hours (s : State) {m : Mode} {k : Key} (hm : m = .editHoursOfTime ∨ m = .editHoursOfAlarm)
    (hk : k = .increment ∨ k = .decrement) :
    handle s m k = (stepField k hourLimits s.edit.hours).map fun g => editAndShow s (s.edit.withHours g) := by
  rcases hk with rfl | rfl
  · rw [stepField, if_pos rfl, Option.map_map]
    rcases hm with rfl | rfl <;> rfl
  · rcases hm with rfl | rfl <;> rfl

/-- The answer of a cell that replaces the edit buffer and shows it. -/
theorem exec_press_of_editAndShow {s : State} {k : Key} {u : Time} (hr : s.halted = false)
    (hu : validTime u = true) (h : handle (restartIdle s) s.mode k = some (editAndShow (restartIdle s) u)) :
    ∃ t, exec (.keyEvent (BitVec.ofNat 3 k.number) .press) s = .next t ∧
      Stated.ShowsFrom { Stated.keyed s with edit := u } t u := by
  refine ⟨_, exec_press_of_handle hr h, ?_⟩
  rw [← respond_restartIdle]
  exact showsFrom_respond (showDigits_showsFrom { restartIdle s with edit := u } hu) .ok 0x0000#16

/-- Settles O48: the minutes step as a field does, and the time stays valid. -/
theorem editMinutesKeys : Obligations.EditMinutesKeys := by
  intro s k hr he hm hk
  obtain ⟨g, hg, legal, value⟩ := stepField_spec k (by decide) (minutes_legal he)
  have valid : validTime (s.edit.withMinutes g) = true := withMinutes_valid he legal
  have cell : handle (restartIdle s) s.mode k = some (editAndShow (restartIdle s) (s.edit.withMinutes g)) := by
    rw [handle_edit_minutes _ hm hk, restartIdle_edit, hg, Option.map_some]
  obtain ⟨t, ht, shown⟩ := exec_press_of_editAndShow hr valid cell
  exact ⟨t, _, ht, valid, rfl, value, shown⟩

/-- Settles O49: the hours step as a field does, and the time stays valid. -/
theorem editHoursKeys : Obligations.EditHoursKeys := by
  intro s k hr he hm hk
  obtain ⟨g, hg, legal, value⟩ := stepField_spec k (by decide) (hours_legal he)
  have valid : validTime (s.edit.withHours g) = true := withHours_valid he legal
  have cell : handle (restartIdle s) s.mode k = some (editAndShow (restartIdle s) (s.edit.withHours g)) := by
    rw [handle_edit_hours _ hm hk, restartIdle_edit, hg, Option.map_some]
  obtain ⟨t, ht, shown⟩ := exec_press_of_editAndShow hr valid cell
  exact ⟨t, _, ht, valid, rfl, value, shown⟩

/-! ### Entering an edit, and moving between its variants (R208, R209, R212-R214, R217) -/

/-- The answer of a cell that enters an edit. -/
theorem exec_press_of_startEdit {s : State} {k : Key} {mode : Mode} {seed : Time} (hr : s.halted = false)
    (hv : validTime seed = true) (h : handle (restartIdle s) s.mode k = startEdit (restartIdle s) mode seed) :
    ∃ t, exec (.keyEvent (BitVec.ofNat 3 k.number) .press) s = .next t ∧
      Stated.ShowsFrom { Stated.flashing (Stated.keyed s) 2 3 with edit := seed, mode := mode } t seed := by
  refine ⟨_, exec_press_of_handle hr h, ?_⟩
  rw [← respond_restartIdle]
  exact showsFrom_respond (showsFrom_flashMinutes
    (showDigits_showsFrom { restartIdle s with edit := seed, mode := mode } hv)) .ok 0x0000#16

/-- Both StartEdit keys in both modes outside an edit, with the seed of the mode (R208, R209). -/
theorem handle_startEdit (s : State) {m : Mode} (hm : m = .unconfigured ∨ m = .showingTime) (alarm : Bool) :
    handle s m (if alarm then .startEditAlarm else .startEditTime) =
      startEdit s (if alarm then .editMinutesOfAlarm else .editMinutesOfTime)
        (if m = .unconfigured then Time.zero else if alarm then s.alarmTime else s.time) := by
  rcases hm with rfl | rfl <;> cases alarm <;> rfl

/-- Settles O50: the cell enters the key's edit with the seed of its mode, which is a valid time. -/
theorem startEditKeys : Obligations.StartEditKeys := by
  intro s alarm hr hm ht ha seed
  have number : (if alarm then 3#3 else 2#3) =
      BitVec.ofNat 3 (if alarm then Key.startEditAlarm else .startEditTime).number := by cases alarm <;> rfl
  have valid : validTime seed = true := by
    dsimp only [seed]
    split_ifs
    exacts [validTime_zero, ha, ht]
  have cell := handle_startEdit (restartIdle s) hm alarm
  rw [restartIdle_time, restartIdle_alarmTime] at cell
  rw [number]
  exact exec_press_of_startEdit hr valid cell

theorem respond_toHours (s : State) (m : Mode) :
    (flashHours { restartIdle s with mode := m }).respond .ok 0x0000#16 =
      { Stated.flashing (Stated.keyed s) 0 1 with mode := m } := by
  rw [← respond_restartIdle]
  rfl

theorem respond_toMinutes (s : State) (m : Mode) :
    (flashMinutes { restartIdle s with mode := m }).respond .ok 0x0000#16 =
      { Stated.flashing (Stated.keyed s) 2 3 with mode := m } := by
  rw [← respond_restartIdle]
  rfl

/-- Settles O51: each cell sets its mode and the flash window of the digits edited there. -/
theorem variantMoves : Obligations.VariantMoves := by
  intro s hr
  simp only [← respond_toHours, ← respond_toMinutes]
  exact ⟨fun hm => exec_press_of_handle (k := .accept) hr (by rw [hm]; rfl),
    fun hm => exec_press_of_handle (k := .cancel) hr (by rw [hm]; rfl),
    fun hm => exec_press_of_handle (k := .accept) hr (by rw [hm]; rfl),
    fun hm => exec_press_of_handle (k := .cancel) hr (by rw [hm]; rfl)⟩

/-! ### Leaving an edit (R211, R215, R216, R219) -/

theorem handle_cancel_of_minutes (s : State) {m : Mode} (hm : m = .editMinutesOfTime ∨ m = .editMinutesOfAlarm) :
    handle s m .cancel = some (leaveEdit s) := by
  rcases hm with rfl | rfl <;> rfl

/-- Settles O52: the cell leaves the edit and commits nothing. -/
theorem cancelDiscardsEdit : Obligations.CancelDiscardsEdit := by
  intro s hr hm ht
  refine ⟨_, exec_press_of_handle (k := .cancel) hr (handle_cancel_of_minutes _ hm), ?_⟩
  rw [← respond_restartIdle]
  exact leaveEdit_respond_leavesEdit fun _ => by rwa [restartIdle_time]

theorem commitTime_eq (s : State) :
    commitTime s =
      some (if validTime s.edit = true then leaveEdit { s with time := s.edit, seconds := 0#6, clockValid := true }
        else s) := by
  obtain ⟨t, ht⟩ := commitTime_some s
  obtain ⟨hv, rfl⟩ | ⟨hn, rfl⟩ := commitTime_cases ht
  · rw [ht, if_pos hv]
  · rw [ht, if_neg (ne_true_of_eq_false hn)]

theorem commitAlarm_eq (s : State) :
    commitAlarm s =
      some (if validTime s.edit = true then leaveEdit { s with alarmTime := s.edit, alarmEn := true } else s) := by
  obtain ⟨t, ht⟩ := commitAlarm_some s
  obtain ⟨hv, rfl⟩ | ⟨hn, rfl⟩ := commitAlarm_cases ht
  · rw [ht, if_pos hv]
  · rw [ht, if_neg (ne_true_of_eq_false hn)]

/-- Settles O53: a valid edit buffer is the time shown, and an invalid one is not committed. -/
theorem commitTimeResult : Obligations.CommitTimeResult := by
  intro s hr hm
  have cell : handle (restartIdle s) s.mode .accept = commitTime (restartIdle s) := by rw [hm]; rfl
  have pressed := exec_press_of_handle hr (cell.trans (commitTime_eq _))
  rw [← respond_restartIdle, ← restartIdle_edit s]
  refine ⟨fun hv => ?_, fun hn => ?_⟩
  · rw [if_pos hv] at pressed
    exact ⟨_, pressed, leaveEdit_respond_leavesEdit fun _ => hv⟩
  · rwa [if_neg (ne_true_of_eq_false hn)] at pressed

/-- Settles O54: a valid edit buffer is committed before the edit is left, and an invalid one is not. -/
theorem commitAlarmResult : Obligations.CommitAlarmResult := by
  intro s hr hm ht
  have cell : handle (restartIdle s) s.mode .accept = commitAlarm (restartIdle s) := by rw [hm]; rfl
  have pressed := exec_press_of_handle hr (cell.trans (commitAlarm_eq _))
  rw [← respond_restartIdle, ← restartIdle_edit s]
  rw [← restartIdle_time s] at ht
  refine ⟨fun hv => ?_, fun hn => ?_⟩
  · rw [if_pos hv] at pressed
    exact ⟨_, pressed, leaveEdit_respond_leavesEdit fun _ => ht⟩
  · rwa [if_neg (ne_true_of_eq_false hn)] at pressed

/-! ### Accept and Cancel in ShowingTime (R206, R207) -/

/-- In ShowingTime there is no idle timer to restart. -/
theorem exec_press_showing {s u : State} {k : Key} (hr : s.halted = false) (hm : s.mode = .showingTime)
    (h : handle s .showingTime k = some u) :
    exec (.keyEvent (BitVec.ofNat 3 k.number) .press) s = .next (u.respond .ok 0x0000#16) := by
  refine exec_press_of_handle hr ?_
  rwa [hm, restartIdle_of_not_edit (by rw [hm]; rfl)]

/-- The answer of a cell that stops the ring, with its notification (R258). -/
theorem exec_press_showing_of_stopRing {s u : State} {k : Key} (hr : s.halted = false) (hm : s.mode = .showingTime)
    (h : handle s .showingTime k = some u.stopRing) :
    exec (.keyEvent (BitVec.ofNat 3 k.number) .press) s =
      .next { u with ringing := false, trace := u.trace ++ [.alarmNotify false, .response .ok 0x0000#16] } := by
  rw [exec_press_showing hr hm h]
  simp [State.respond, State.stopRing, State.emit]

theorem acceptShowing_of_not_ringing {s : State} (h : s.ringing = false) :
    acceptShowing s = some { s with alarmEn := true } := by
  rw [acceptShowing, if_neg (ne_true_of_eq_false h)]
  split
  · rename_i ha
    rw [← ha]
  · rename_i ha
    rw [State.toggleAlarmEn, Bool.eq_false_of_not_eq_true ha, Bool.not_false]

theorem acceptShowing_of_ringing {s : State} {u : Time} (h : s.ringing = true)
    (hu : addMinutes s.params.snoozeMinutes.toNat s.alarmTime = some u) :
    acceptShowing s = some { s with alarmTime := u }.stopRing := by
  rw [acceptShowing, if_pos h, snoozeEffect_of_ringing h hu, Option.map_some]

/-- Settles O55: the cell is the snooze of a ring, and the flag's setting where none rings. -/
theorem acceptWhileShowing : Obligations.AcceptWhileShowing := by
  refine fun s hr hm => ⟨fun hn => exec_press_showing (k := .accept) hr hm (acceptShowing_of_not_ringing hn),
    fun hring ht => ?_⟩
  obtain ⟨u, hu⟩ := addMinutes_some s.params.snoozeMinutes.toNat ht
  refine ⟨u, addMinutes_valid ht hu, addMinutes_minuteOfDay ht hu, ?_⟩
  exact exec_press_showing_of_stopRing (k := .accept) hr hm (acceptShowing_of_ringing hring hu)

theorem cancelShowing_of_not_ringing {s : State} (h : s.ringing = false) :
    cancelShowing s = some { s with alarmEn := false } := by
  rw [cancelShowing, if_neg (ne_true_of_eq_false h)]
  split
  · rename_i ha
    rw [State.toggleAlarmEn, ha, Bool.not_true]
  · rename_i ha
    rw [← Bool.eq_false_of_not_eq_true ha]

theorem cancelShowing_of_ringing {s : State} (h : s.ringing = true) : cancelShowing s = some s.stopRing := by
  rw [cancelShowing, if_pos h, cancelAlarmEffect, if_pos h]

/-- Settles O56: the cell is the stop of a ring, and the flag's clearing where none rings. -/
theorem cancelWhileShowing : Obligations.CancelWhileShowing := by
  intro s hr hm
  split
  · rename_i hring
    exact exec_press_showing_of_stopRing (k := .cancel) hr hm (cancelShowing_of_ringing hring)
  · rename_i hn
    exact exec_press_showing (k := .cancel) hr hm (cancelShowing_of_not_ringing (Bool.eq_false_of_not_eq_true hn))

/-! ### The idle timeout (R222) -/

/-- The timeout at its limit runs the Cancel cell of an edit state. -/
theorem idleTick_at_limit {s : State} (h : s.mode.isEdit = true ∧ s.params.idleLimit ≠ 0#16)
    (hl : s.idleCount + 1#16 = s.params.idleLimit) :
    idleTick s = handle { s with idleCount := 0#16 } s.mode .cancel := by
  rw [idleTick, if_pos h, if_pos hl]

theorem idleTick_below_limit {s : State} (h : s.mode.isEdit = true ∧ s.params.idleLimit ≠ 0#16)
    (hl : s.idleCount + 1#16 ≠ s.params.idleLimit) :
    idleTick s = some { s with idleCount := s.idleCount + 1#16 } := by
  rw [idleTick, if_pos h, if_neg hl]

theorem idleTick_disabled {s : State} (h : ¬ (s.mode.isEdit = true ∧ s.params.idleLimit ≠ 0#16)) :
    idleTick s = some s := by
  rw [idleTick, if_neg h]

/-- Settles O45: an idle poll is a tick of the idle timer, and at the limit the Cancel cell of the mode. -/
theorem idlePollTimesOut : Obligations.IdlePollTimesOut := by
  intro s hr ht idle answered
  rw [exec_pollKeys_keyPrev hr]
  refine ⟨fun h => ?_, fun h hl => ?_, fun h hl => ?_⟩
  · rw [idleTick_disabled h]
    rfl
  · rw [idleTick_below_limit h hl]
    rfl
  · rw [idleTick_at_limit h hl]
    cases hm : s.mode with
    | unconfigured | showingTime => exact absurd h.1 (by simp [hm, Mode.isEdit])
    | editHoursOfTime => exact ⟨_, rfl, fun _ => rfl, nofun, nofun⟩
    | editHoursOfAlarm => exact ⟨_, rfl, nofun, fun _ => rfl, nofun⟩
    | editMinutesOfTime | editMinutesOfAlarm =>
      exact ⟨_, rfl, nofun, nofun, fun _ =>
        leaveEdit_respond_leavesEdit (s := { s with idleCount := 0#16 }) fun _ => ht⟩

end Sys2Proof.Machine

namespace Sys2Proof.Machine

/-!
SUPPORT. What stands in the place of exceptions (60_exceptions.md): the halted block (R253), and the status each command reports,
with what an error leaves unchanged (R250).
-/

/-! ### The halted block (R253) -/

/-- Construction halts the block exactly for a digit count outside the legal range (R281). -/
theorem resetWith_halted_iff (p : Params) :
    (State.resetWith p).halted = true ↔ p.digitCount < 1 ∨ 8 < p.digitCount := by
  have hs := constructionSucceeds_iff p
  rw [maxDigits] at hs
  show (!constructionSucceeds p) = true ↔ _
  rw [Bool.not_eq_true', ← Bool.not_eq_true, hs]
  omega

theorem exec_of_halted {s : State} (h : s.halted = true) (i : Instr) : exec i s = .fault .halted := by
  cases i <;> exact running_of_halted h _

/-- Settles O7: construction refuses the digit count, and the step and every command begin with the halt guard. -/
theorem haltedBlockIsStuck : Obligations.HaltedBlockIsStuck :=
  ⟨fun p hp => (resetWith_halted_iff p).2 hp, fun _ h => ⟨running_of_halted h _, exec_of_halted h⟩⟩

/-! ### The statuses and their causes (R250) -/

/-- The status a command reports in a state (R130, R131, R133, R135): every command not named here reports OK. -/
def reportedStatus (s : State) : Instr → Status
  | .getTime => if s.clockValid then .ok else .notReady
  | .setTime cnt d0 d1 d2 d3 => if cnt = 4#4 ∧ validTime ⟨d0, d1, d2, d3⟩ then .ok else .invalidArgument
  | .setAlarm d0 d1 d2 d3 => if validTime ⟨d0, d1, d2, d3⟩ then .ok else .invalidArgument
  | .snooze _ => if s.ringing then .ok else .notReady
  | _ => .ok

/-- `t` is a state that has responded with the status, and for an error that state is `s` itself. -/
def Responds (s t : State) (status : Status) : Prop :=
  ∃ u data, t = u.respond status data ∧ (status ≠ .ok → u = s)

theorem responds_ok (s u : State) (data : BitVec 16) : Responds s (u.respond .ok data) .ok :=
  ⟨u, data, rfl, fun h => absurd rfl h⟩

theorem responds_self (s : State) (status : Status) (data : BitVec 16) :
    Responds s (s.respond status data) status :=
  ⟨s, data, rfl, fun _ => rfl⟩

theorem responds_ok_of_answer {s u t : State} (h : answer (.ok, u) = .next t) : Responds s t .ok :=
  answer_eq_next h ▸ responds_ok s u _

theorem responds_ok_of_finish {s t : State} {o : Option State} (h : finish o = .next t) : Responds s t .ok := by
  obtain ⟨u, -, rfl⟩ := finish_eq_next h
  exact responds_ok s u _

/-- The last event of the trace tells the status, and after an error it is all that is new. -/
theorem Responds.of_getLast? {s t : State} {reported status : Status} {data : BitVec 16}
    (h : Responds s t reported) (hl : t.trace.getLast? = some (.response status data)) :
    status = reported ∧ (status ≠ .ok → t = { s with trace := s.trace ++ [.response status data] }) := by
  obtain ⟨u, d, rfl, hu⟩ := h
  rw [respond_trace, List.getLast?_concat] at hl
  cases hl
  exact ⟨rfl, fun hne => by rw [hu hne]; rfl⟩

theorem keyOfNumber_ne_none : ∀ {key : BitVec 3}, keyNumberOk key = true → keyOfNumber key ≠ none := by
  decide

/-- A command that answers reports its status; the key number of a command is one of R94, so no command is undefined. -/
theorem exec_responds {i : Instr} {s t : State} (hw : i.wellFormed = true) (h : exec i s = .next t) :
    Responds s t (reportedStatus s i) := by
  cases i with
  | advanceTick =>
    obtain ⟨-, u, -, rfl⟩ := execAdvanceTick_eq_next h
    exact responds_ok s u _
  | refresh =>
    obtain ⟨-, rfl⟩ := execRefresh_eq_next h
    exact responds_ok s _ _
  | getTime =>
    obtain ⟨-, h⟩ := running_eq_next h
    cases h
    exact responds_self s _ _
  | getAlarm =>
    obtain ⟨-, h⟩ := running_eq_next h
    cases h
    exact responds_ok s s _
  | setTime cnt d0 d1 d2 d3 =>
    obtain rfl := answer_eq_next (running_eq_next h).2
    rw [setTimeEffect, reportedStatus]
    split
    · exact responds_ok s _ _
    · exact responds_self s _ _
  | setAlarm d0 d1 d2 d3 =>
    obtain rfl := answer_eq_next (running_eq_next h).2
    rw [setAlarmEffect, reportedStatus]
    split
    · exact responds_ok s _ _
    · exact responds_self s _ _
  | snooze minutes =>
    obtain ⟨-, h⟩ := running_eq_next h
    split at h
    · cases h
    · rename_i r hr
      obtain rfl := answer_eq_next h
      rcases snoozeEffect_cases hr with ⟨hn, rfl⟩ | ⟨hn, u, -, rfl⟩ <;> rw [reportedStatus, hn]
      · exact responds_self s _ _
      · exact responds_ok s _ _
  | pollKeys levels => exact responds_ok_of_finish (running_eq_next h).2
  | keyEvent key edge =>
    obtain ⟨-, h⟩ := running_eq_next h
    split at h
    · rename_i hk
      exact absurd hk (keyOfNumber_ne_none hw)
    · exact responds_ok_of_finish h
  | toggleAlarm | cancelAlarm | writeDigits | setFlashWindow | toggleDot | setDots | clearDots =>
    exact responds_ok_of_answer (running_eq_next h).2

theorem reportedStatus_eq_invalidArgument_iff (s : State) (i : Instr) :
    reportedStatus s i = .invalidArgument ↔
      (∃ cnt d0 d1 d2 d3, i = .setTime cnt d0 d1 d2 d3 ∧ ¬ (cnt = 4#4 ∧ validTime ⟨d0, d1, d2, d3⟩ = true)) ∨
      (∃ d0 d1 d2 d3, i = .setAlarm d0 d1 d2 d3 ∧ validTime ⟨d0, d1, d2, d3⟩ = false) := by
  cases i <;> simp [reportedStatus, ite_eq_iff]

theorem reportedStatus_eq_notReady_iff (s : State) (i : Instr) :
    reportedStatus s i = .notReady ↔
      (i = .getTime ∧ s.clockValid = false) ∨ (∃ m, i = .snooze m ∧ s.ringing = false) := by
  cases i <;> simp [reportedStatus, ite_eq_iff]

theorem reportedStatus_ne_undefinedCommand (s : State) (i : Instr) :
    reportedStatus s i ≠ .undefinedCommand := by
  cases i <;> simp [reportedStatus, ite_eq_iff]

/-- Settles O15: the last event carries the status the command reports, whose causes are the table's, and an undefined word is
answered as O3 says. -/
theorem errorsAndTheirCauses : Obligations.ErrorsAndTheirCauses := by
  refine ⟨⟨rfl, rfl, rfl, rfl⟩, fun s w rest hr hi hw => (undefinedWordsAnswered w).2 s rest hr hi hw, ?_⟩
  intro i s t status data hw h hl
  obtain ⟨rfl, hsame⟩ := (exec_responds hw h).of_getLast? hl
  exact ⟨hsame, reportedStatus_eq_invalidArgument_iff s i, reportedStatus_eq_notReady_iff s i,
    reportedStatus_ne_undefinedCommand s i⟩

end Sys2Proof.Machine

namespace Sys2Proof.Machine

/-!
SUPPORT. What construction leaves (70_reset_and_hazards.md): the trace of R283, the registers of R282, and the first digit the scan
drives (R282, R152).
-/

/-! ### Construction (R281, R283) -/

/-- A block that runs after construction is one whose digit count is legal (R281). -/
theorem resetWith_not_halted {p : Params} (hlow : 1 ≤ p.digitCount) (hhigh : p.digitCount ≤ 8) :
    (State.resetWith p).halted = false := by
  rw [← Bool.not_eq_true, resetWith_halted_iff]
  omega

/-- A halted construction has emitted nothing, any other DRV_ALL_OFF alone (R281, R283). -/
theorem resetWith_trace (p : Params) :
    (State.resetWith p).trace = if (State.resetWith p).halted then [] else [.drvAllOff] := by
  show (if constructionSucceeds p then _ else _) = if !constructionSucceeds p then _ else _
  cases constructionSucceeds p <;> rfl

theorem packed_zero : Time.zero.packed = 0x0000#16 := by decide

/-- Every register but `HALTED` holds its value of R282's table, for any parameters. -/
theorem resetWith_resetRegisters (p : Params) : Stated.ResetRegisters (State.resetWith p) :=
  ⟨packed_zero, rfl, rfl, rfl, packed_zero, rfl, rfl, fun _ _ => rfl, rfl, rfl, rfl, rfl, rfl, rfl, rfl,
    packed_zero, rfl⟩

/-- Settles O8: the trace follows the halt bit, which construction sets exactly for an illegal digit count. -/
theorem constructionCheck : Obligations.ConstructionCheck := by
  intro p
  constructor
  · intro hp
    have hh := (resetWith_halted_iff p).2 hp
    exact ⟨hh, by rw [resetWith_trace, hh, if_pos rfl]⟩
  · intro hlow hhigh
    have hr := resetWith_not_halted hlow hhigh
    exact ⟨hr, resetWith_resetRegisters p, by rw [resetWith_trace, hr]; rfl⟩

/-! ### The first digit driven (R282, R152) -/

/-- From the reset position 0 the scan goes on to digit 1, or stays where there is one digit (R282). -/
theorem nextDigit_resetWith {p : Params} (hlow : 1 ≤ p.digitCount) :
    nextDigit (State.resetWith p) = if p.digitCount = 1 then 0 else 1 := by
  show 1 % p.digitCount = _
  split
  · rename_i h
    rw [h]
  · exact Nat.mod_eq_of_lt (by omega)

/-- REFRESH drives the next digit of the scan and no other (R152). -/
theorem exec_refresh_drives {s : State} (hr : s.halted = false) (hlow : 1 ≤ s.params.digitCount)
    (hhigh : s.params.digitCount ≤ 8) : ∃ t, exec .refresh s = .next t ∧ Drives s t [nextDigit s] := by
  have hlt : nextDigit s < 2 ^ 8 := (Nat.mod_lt _ hlow).trans_le (hhigh.trans (by decide))
  exact ⟨_, refreshResult s hr hlow hhigh, _, rfl, congrArg (fun d => [d]) (toNat_ofNat_of_lt hlt)⟩

/-- Settles O9: DRV_ALL_OFF, all that stands in the trace before the first REFRESH, drives no digit. -/
theorem resetValues : Obligations.ResetValues := by
  intro p hlow hhigh
  have hr := resetWith_not_halted hlow hhigh
  refine ⟨resetWith_resetRegisters p, hr, fun htps => resetWith_inv ⟨hlow, hhigh, htps⟩, ?_⟩
  obtain ⟨t, ht, events, htr, hdigits⟩ := exec_refresh_drives hr hlow hhigh
  refine ⟨t, ht, ?_⟩
  rw [htr, resetWith_trace, hr, ← nextDigit_resetWith hlow, ← hdigits]
  rfl

end Sys2Proof.Machine
